-- ==== Sys2Proof/Word.lean ====
section
/-!
DEFINITION. The engine's word, and the four codes of a matrix cell.
-/

namespace Sys2Proof

/-- A 32-bit word: a host register's value, a command word (10_state.md R21, 30_encoding.md R60). -/
abbrev Word := BitVec 32

/-- What a matrix cell holds: one of the four two-bit codes of 10_state.md R31. `cellCode`
(Machine/Operands.lean) gives the codes. -/
inductive Cell where
  | light
  | dark
  | empty
  | invalid
  deriving DecidableEq, Repr, Inhabited

end Sys2Proof
end

