-- ==== Sys2Proof/Syntax.lean ====
section
/-!
DEFINITION. The commands, one constructor per row of spec/opcode_table.json (30_encoding.md R64).
-/

namespace Sys2Proof

/-- The four bit-vector registers V0..V3 (10_state.md R35). -/
inductive VReg where
  | v0
  | v1
  | v2
  | v3
  deriving DecidableEq, Repr

/-- A command of the engine, with the operands its word carries (30_encoding.md R61, R62). Operands
held in OPA, OPB and CFG are not part of the command. -/
inductive Instr where
  /-- CLEAR (41_matrix.md R100). -/
  | clear
  /-- EMBPAT (43_patterns.md R120). -/
  | embpat
  /-- EMBFMT (45_format.md R143). -/
  | embfmt
  /-- EMBDATA vs1 (46_placer.md R150). -/
  | embdata (vs1 : VReg)
  /-- ENCODE vs1 (47_encode.md R165). -/
  | encode (vs1 : VReg)
  /-- MSBPOS (44_bch.md R130). -/
  | msbpos
  /-- BCHREM (44_bch.md R131). -/
  | bchrem
  /-- FMTBITS (45_format.md R140). -/
  | fmtbits
  /-- GET X, Y (41_matrix.md R101): x is the column, y the row (00_scope.md R17). -/
  | get (x y : BitVec 8)
  /-- SET X, Y, B (41_matrix.md R102): b is the bit to write. -/
  | set (x y : BitVec 8) (b : Bool)
  /-- VCLR vd (42_bitvector.md R110). -/
  | vclr (vd : VReg)
  /-- VAPP vd, NB (42_bitvector.md R111): nb is the append width, legal 0..32. -/
  | vapp (vd : VReg) (nb : BitVec 6)
  /-- VXOR vd, vs1, vs2 (42_bitvector.md R112). -/
  | vxor (vd vs1 vs2 : VReg)
  /-- VGET vs1 (42_bitvector.md R113). -/
  | vget (vs1 : VReg)
  /-- VLEN vs1 (42_bitvector.md R114). -/
  | vlen (vs1 : VReg)
  deriving DecidableEq, Repr

end Sys2Proof
end

