-- ==== Sys2Proof/WellFormed.lean ====
section
/-!
DEFINITION. Which terms of `Instr` are commands: the one check the encoding makes beyond the widths of
the fields (30_encoding.md R67).
-/

namespace Sys2Proof

/-- A well-formed command. The fields' types carry their widths; the one further condition is VAPP's
append width, which is at most 32 (30_encoding.md R66, R67). -/
def Instr.wellFormed : Instr → Bool
  | .clear => true
  | .embpat => true
  | .embfmt => true
  | .embdata _ => true
  | .encode _ => true
  | .msbpos => true
  | .bchrem => true
  | .fmtbits => true
  | .get _ _ => true
  | .set _ _ _ => true
  | .vclr _ => true
  | .vapp _ nb => decide (nb.toNat ≤ 32)
  | .vxor _ _ _ => true
  | .vget _ => true
  | .vlen _ => true

end Sys2Proof
end

