-- ==== Sys2Proof/Decode.lean ====
section
/-!
DEFINITION. The decoder of 30_encoding.md R60 to R68, total on every 32-bit word and rejecting by
name, and the encoder, written from the formats of R61.
-/

namespace Sys2Proof

/-- Which row of 30_encoding.md R64 a word belongs to. -/
inductive Op where
  | clear | embpat | embfmt | embdata | encode | msbpos | bchrem | fmtbits
  | get | set | vclr | vapp | vxor | vget | vlen
  deriving DecidableEq, Repr

/-- One row of the opcode table: a word belongs to it when it equals `pattern` on every bit of `mask`
(30_encoding.md R65). -/
structure OpRow where
  op : Op
  pattern : Word
  mask : Word
  deriving DecidableEq, Repr

/-- The rows of 30_encoding.md R64 with the match and mask of spec/opcode_table.json. The masks take
in the must-be-zero bits of R65. -/
def opTable : List OpRow :=
  [ ⟨.clear,   0x01000000#32, 0xFFFFFFFF#32⟩,
    ⟨.embpat,  0x02000000#32, 0xFFFFFFFF#32⟩,
    ⟨.embfmt,  0x03000000#32, 0xFFFFFFFF#32⟩,
    ⟨.embdata, 0x04000000#32, 0xFFCFFFFF#32⟩,
    ⟨.encode,  0x05000000#32, 0xFFCFFFFF#32⟩,
    ⟨.msbpos,  0x08000000#32, 0xFFFFFFFF#32⟩,
    ⟨.bchrem,  0x09000000#32, 0xFFFFFFFF#32⟩,
    ⟨.fmtbits, 0x0A000000#32, 0xFFFFFFFF#32⟩ ] ++
  [ ⟨.get,     0x10000000#32, 0xFFFF0000#32⟩,
    ⟨.set,     0x11000000#32, 0xFFFE0000#32⟩,
    ⟨.vclr,    0x18000000#32, 0xFF3FFFFF#32⟩,
    ⟨.vapp,    0x19000000#32, 0xFF3FFFC0#32⟩,
    ⟨.vxor,    0x1A000000#32, 0xFF03FFFF#32⟩,
    ⟨.vget,    0x1B000000#32, 0xFFCFFFFF#32⟩,
    ⟨.vlen,    0x1C000000#32, 0xFFCFFFFF#32⟩ ]

/-- OPC = w[31:24] (30_encoding.md R60). -/
def fieldOpc (w : Word) : BitVec 8 := w.extractLsb' 24 8

/-- X = w[15:8] (30_encoding.md R62). -/
def fieldX (w : Word) : BitVec 8 := w.extractLsb' 8 8

/-- Y = w[7:0] (30_encoding.md R62). -/
def fieldY (w : Word) : BitVec 8 := w.extractLsb' 0 8

/-- B = w[16] (30_encoding.md R62). -/
def fieldB (w : Word) : Bool := w.getLsbD 16

/-- NB = w[5:0] (30_encoding.md R62). -/
def fieldNb (w : Word) : BitVec 6 := w.extractLsb' 0 6

/-- The vector register that a two-bit field names (30_encoding.md R62). -/
def vregOfField (f : BitVec 2) : VReg :=
  if f = 0#2 then .v0 else if f = 1#2 then .v1 else if f = 2#2 then .v2 else .v3

/-- VD = w[23:22] (30_encoding.md R62). -/
def fieldVd (w : Word) : VReg := vregOfField (w.extractLsb' 22 2)

/-- VS1 = w[21:20] (30_encoding.md R62). -/
def fieldVs1 (w : Word) : VReg := vregOfField (w.extractLsb' 20 2)

/-- VS2 = w[19:18] (30_encoding.md R62). -/
def fieldVs2 (w : Word) : VReg := vregOfField (w.extractLsb' 18 2)

/-- The command that a word of the given row stands for: its row's "fields used" (30_encoding.md
R64), read from the places of R61. -/
def readFields (op : Op) (w : Word) : Instr :=
  match op with
  | .clear => .clear
  | .embpat => .embpat
  | .embfmt => .embfmt
  | .embdata => .embdata (fieldVs1 w)
  | .encode => .encode (fieldVs1 w)
  | .msbpos => .msbpos
  | .bchrem => .bchrem
  | .fmtbits => .fmtbits
  | .get => .get (fieldX w) (fieldY w)
  | .set => .set (fieldX w) (fieldY w) (fieldB w)
  | .vclr => .vclr (fieldVd w)
  | .vapp => .vapp (fieldVd w) (fieldNb w)
  | .vxor => .vxor (fieldVd w) (fieldVs1 w) (fieldVs2 w)
  | .vget => .vget (fieldVs1 w)
  | .vlen => .vlen (fieldVs1 w)

/-- The extra condition of a row (30_encoding.md R66): only VAPP has one, NB <= 32 (R67). -/
def extraCondition (op : Op) (w : Word) : Bool :=
  match op with
  | .vapp => decide ((fieldNb w).toNat ≤ 32)
  | .clear | .embpat | .embfmt | .embdata | .encode | .msbpos | .bchrem | .fmtbits
  | .get | .set | .vclr | .vxor | .vget | .vlen => true

/-- Whether a word belongs to a row: it equals the row's pattern under its mask and meets the row's
extra condition (30_encoding.md R66). -/
def OpRow.accepts (r : OpRow) (w : Word) : Bool :=
  (w &&& r.mask == r.pattern) && extraCondition r.op w

/-- Why a word decodes as ILLEGAL. The engine raises IllegalCommand on each alike. -/
inductive Illegal where
  /-- One of the 241 reserved opcodes (30_encoding.md R66). -/
  | reservedOpcode
  /-- An assigned opcode with a must-be-zero bit set (30_encoding.md R65). -/
  | mustBeZeroBits
  /-- VAPP with NB in 33..63 (30_encoding.md R67). -/
  | appendWidth
  deriving DecidableEq, Repr

/-- What the decoder answers. -/
inductive Decoded where
  | command (i : Instr)
  | illegal (why : Illegal)
  deriving DecidableEq, Repr

/-- The reason for which a word that belongs to no row is ILLEGAL. -/
def illegalReason (w : Word) : Illegal :=
  if opTable.all (fun r => fieldOpc r.pattern != fieldOpc w) then .reservedOpcode
  else if opTable.all (fun r => w &&& r.mask != r.pattern) then .mustBeZeroBits
  else .appendWidth

/-- The decoder of 30_encoding.md R66: the first row that accepts the word gives the command, and a
word that no row accepts is ILLEGAL. -/
def decode (w : Word) : Decoded :=
  match opTable.find? (fun r => r.accepts w) with
  | some r => .command (readFields r.op w)
  | none => .illegal (illegalReason w)

/-- The decoder on a word numbered as spec/opcode_table.json numbers it. A command is one 32-bit word
(30_encoding.md R60), written whole, so no byte order arises (20_memory.md R51). -/
def decodeTableWord (nbits w : Nat) : Option Instr :=
  match decode (BitVec.ofNat 32 (w % 2 ^ nbits)) with
  | .command i => some i
  | .illegal _ => none

/-- The two-bit field that names a vector register (30_encoding.md R62). -/
def vregField : VReg → BitVec 2
  | .v0 => 0#2
  | .v1 => 1#2
  | .v2 => 2#2
  | .v3 => 3#2

/-- Format N (30_encoding.md R61): OPC, then 24 zero bits. -/
def formatN (opc : BitVec 8) : Word := opc ++ 0#24

/-- Format C (30_encoding.md R61): OPC, 7 zero bits, B, X, Y. -/
def formatC (opc : BitVec 8) (b : Bool) (x y : BitVec 8) : Word :=
  opc ++ 0#7 ++ BitVec.ofBool b ++ x ++ y

/-- Format V (30_encoding.md R61): OPC, VD, VS1, VS2, 12 zero bits, NB. -/
def formatV (opc : BitVec 8) (vd vs1 vs2 : BitVec 2) (nb : BitVec 6) : Word :=
  opc ++ vd ++ vs1 ++ vs2 ++ 0#12 ++ nb

/-- The word of a command: its format and opcode (30_encoding.md R61, R64), with every field it does
not use zero (R65). -/
def encode : Instr → Word
  | .clear => formatN 0x01#8
  | .embpat => formatN 0x02#8
  | .embfmt => formatN 0x03#8
  | .embdata vs1 => formatV 0x04#8 0#2 (vregField vs1) 0#2 0#6
  | .encode vs1 => formatV 0x05#8 0#2 (vregField vs1) 0#2 0#6
  | .msbpos => formatN 0x08#8
  | .bchrem => formatN 0x09#8
  | .fmtbits => formatN 0x0A#8
  | .get x y => formatC 0x10#8 false x y
  | .set x y b => formatC 0x11#8 b x y
  | .vclr vd => formatV 0x18#8 (vregField vd) 0#2 0#2 0#6
  | .vapp vd nb => formatV 0x19#8 (vregField vd) 0#2 0#2 nb
  | .vxor vd vs1 vs2 => formatV 0x1A#8 (vregField vd) (vregField vs1) (vregField vs2) 0#6
  | .vget vs1 => formatV 0x1B#8 0#2 (vregField vs1) 0#2 0#6
  | .vlen vs1 => formatV 0x1C#8 0#2 (vregField vs1) 0#2 0#6

end Sys2Proof
end

