-- ==== Sys2Proof/Config.lean ====
section
/-!
DEFINITION. What is fixed for one instance of the block: its parameters (00_scope.md R9, R10, R12;
45_format.md R139), and the things the model leaves free (the mask function, the code an unspecified
cell holds, the block's base address). The opaque constants have no body, so no proof can see a value
of theirs.
-/

namespace Sys2Proof

/-- One row of SYMTAB: the version and level that key it, and the symbol number in [0,7]
(00_scope.md R12). -/
structure SymtabRow where
  version : BitVec 3
  ecl : BitVec 2
  symbol : BitVec 3
  deriving DecidableEq, Repr

/-- The parameters of one instance. The state holds them, and nothing writes them, so that a step takes
them as an argument (notes/assumptions/1.md). -/
structure Params where
  /-- NMAX, the largest matrix side the storage holds, at most 31 (00_scope.md R9). -/
  nmax : Fin 32
  /-- VCAP, the capacity in bits of a vector register, at most 65535 (00_scope.md R10). -/
  vcap : Fin 65536
  /-- M1_ECL, the level code that keys version 1's SYMTAB entry (00_scope.md R12). -/
  m1Ecl : BitVec 2
  /-- SYMTAB's rows for the other versions (45_format.md R139). -/
  symtab : List SymtabRow
  deriving DecidableEq, Repr

/-- The side of the array that holds the cells: the largest legal NMAX (00_scope.md R9,
notes/assumptions/6.md). -/
def Config.maxSide : Nat := 31

/-- The mask function of 00_scope.md R11, an uninterpreted input of the block (notes/assumptions/4.md):
the pattern, then the column x, then the row y. -/
opaque Config.maskFn : Fin 4 → Nat → Nat → Bool

/-- The code that cell (x, y) holds after the n-th event that leaves the cells unspecified (reset:
70_reset_and_hazards.md R200; a legal DIM write: 10_state.md R28). A free value
(notes/assumptions/2.md): any of the four codes, independently per event and per cell. -/
opaque Config.freeCell (n x y : Nat) : Cell

/-- Where the register block sits in the host's address space (20_memory.md R55). No rule depends on
it: host accesses are modelled by their offset inside the block (notes/assumptions/16.md). -/
opaque Config.BFPE_BASE : Nat

end Sys2Proof
end

