-- ==== Sys2Proof/Machine/Grid.lean ====
section
/-!
DEFINITION. The symbol matrix's storage: NMAX by NMAX cells, and the operations that read and write
one cell of it (10_state.md R30, 00_scope.md R16, R17).
-/

namespace Sys2Proof.Machine

/-- The array that holds the matrix storage of 10_state.md R30, row y first. Its side is the largest
legal NMAX; the cells are its first NMAX rows and columns, and the entries beyond hold INVALID
(notes/assumptions/6.md). -/
abbrev Grid := Vector (Vector Cell Config.maxSide) Config.maxSide

/-- `cell(x, y)` of 00_scope.md R16: the cell in column x and row y. Outside the array there is no
cell, and INVALID stands for that (notes/assumptions/6.md): no command asks for one, since a coordinate
below DIM is below 32. -/
def Grid.cell (g : Grid) (x y : Nat) : Cell :=
  if h : x < Config.maxSide ∧ y < Config.maxSide then (g[y]'h.2)[x]'h.1 else .invalid

/-- `cell(x, y) <- c` of 00_scope.md R16. Outside the array nothing is written
(notes/assumptions/6.md). -/
def Grid.setCell (g : Grid) (x y : Nat) (c : Cell) : Grid :=
  if h : x < Config.maxSide ∧ y < Config.maxSide then
    g.set y ((g[y]'h.2).set x c h.1) h.2
  else g

/-- A row of the array's length, entry i being f i. -/
def entries {α : Type} (f : Nat → α) : Vector α Config.maxSide :=
  ⟨((List.range Config.maxSide).map f).toArray, by simp⟩

/-- The storage of an instance with NMAX = nmax whose cells are given one by one: beyond NMAX there is
no cell. -/
def Grid.ofCells (nmax : Nat) (f : Nat → Nat → Cell) : Grid :=
  entries fun y => entries fun x => if x < nmax ∧ y < nmax then f x y else .invalid

/-- Every cell EMPTY (41_matrix.md R100). -/
def Grid.cleared (nmax : Nat) : Grid := Grid.ofCells nmax fun _ _ => .empty

/-- Every cell unspecified: the n-th draw of the free value `Config.freeCell` (70_reset_and_hazards.md
R200, 10_state.md R28, notes/assumptions/2.md). -/
def Grid.drawn (nmax n : Nat) : Grid := Grid.ofCells nmax (Config.freeCell n)

/-- The canonical form of the storage of an instance with NMAX = nmax: there is no cell beyond NMAX. -/
def Grid.fits (g : Grid) (nmax : Nat) : Prop :=
  ∀ x y, ¬(x < nmax ∧ y < nmax) → g.cell x y = .invalid

end Sys2Proof.Machine
end

