-- ==== Sys2Proof/Machine/Params.lean ====
section
/-!
DEFINITION. The parameters of an instance: the spec's defaults, and what the spec requires of them
(00_scope.md R9, R10, R12; 45_format.md R139).
-/

namespace Sys2Proof

/-- The rows of SYMTAB for versions 2 to 4 that 45_format.md R139 lists. UNVERIFIED: the spec marks them
as general knowledge (notes/assumptions/10.md). -/
def standardSymtab : List SymtabRow :=
  [⟨2, 0, 1⟩, ⟨2, 1, 2⟩, ⟨3, 0, 3⟩, ⟨3, 1, 4⟩, ⟨4, 0, 5⟩, ⟨4, 1, 6⟩, ⟨4, 2, 7⟩]

/-- The spec's defaults (00_scope.md R9, R10, R12; 45_format.md R139). -/
def Params.standard : Params where
  nmax := 17
  vcap := 512
  m1Ecl := 0
  symtab := standardSymtab

/-- How many levels SYMTAB has rows for at a version other than 1. -/
def Params.levels (p : Params) (version : BitVec 3) : Nat :=
  (p.symtab.filter fun r => r.version == version).length

/-- What the spec requires of the parameters: NMAX is 9..31 and VCAP 1..65535 (00_scope.md R9, R10);
SYMTAB is a partial function on versions 1..4 whose version 1 has the one level M1_ECL and whose version
4 alone has three (R12). DESIGN CHOICE (notes/assumptions/20.md): any level code may key an entry, H
(3) too. DESIGN CHOICE (notes/assumptions/21.md): nothing more is asked of the rows for versions 2 to 4,
so their number, the levels of versions 2 and 3 (none or four of them too) and the symbol numbers, which
may repeat, are free. -/
abbrev Params.legal (p : Params) : Prop :=
  9 ≤ p.nmax.val ∧ 1 ≤ p.vcap.val ∧
  (∀ r ∈ p.symtab, 2 ≤ r.version.toNat ∧ r.version.toNat ≤ 4) ∧
  (p.symtab.map fun r => (r.version, r.ecl)).Nodup ∧
  p.levels 2 ≠ 3 ∧ p.levels 3 ≠ 3 ∧ p.levels 4 = 3

end Sys2Proof
end

