-- ==== Sys2Proof/Machine/State.lean ====
section
/-!
DEFINITION. The state of the engine (10_state.md R20), the host's pending accesses, and the ways a
step can stop.
-/

namespace Sys2Proof.Machine

/-- The errors a command can raise (60_exceptions.md R181). `ErrorKind.code` (Machine/Flags.lean)
gives their ECODE values. -/
inductive ErrorKind where
  | invalidMaskPattern
  | invalidVersionLevelCombination
  | structuralOverwrite
  | malformedConstantPattern
  | dataOverflow
  | postconditionViolation
  | outOfBounds
  | illegalCommand
  | invalidPolynomial
  | vectorLengthMismatch
  | vectorOverflow
  deriving DecidableEq, Repr

/-- What the host can do to the block, one event at a time (00_scope.md R8, 20_memory.md R57): a bus
write or read at a byte offset of the 6-bit register space (20_memory.md R50) with its width in bits
(R51, R52), or a reset, which comes only between accesses (70_reset_and_hazards.md R200). -/
inductive HostEvent where
  | write (offset : BitVec 6) (bits : Nat) (data : Word)
  | read (offset : BitVec 6) (bits : Nat)
  | reset
  deriving DecidableEq, Repr

/-- The whole state: the instance's parameters, the engine's state (10_state.md R20), and three fields of
the model's own (notes/assumptions/2.md, 3.md). -/
structure State where
  /-- The parameters of the instance: configuration and not state (10_state.md R20), held here so that a
  step takes them as an argument (00_scope.md R9, R10, R12). Nothing writes them
  (notes/assumptions/1.md). -/
  params : Params
  /-- STATUS bit 0, ERR (10_state.md R23). -/
  err : Bool
  /-- STATUS bits 11:8, ECODE (10_state.md R24). -/
  ecode : BitVec 4
  /-- CFG (10_state.md R25). -/
  cfg : Word
  /-- DIM, bits 4:0 (10_state.md R27). -/
  dim : BitVec 5
  /-- OPA (10_state.md R33). -/
  opa : Word
  /-- OPB (10_state.md R34). -/
  opb : Word
  /-- RES (10_state.md R36). -/
  res : Word
  /-- FMT, bits 14:0 (10_state.md R37). -/
  fmt : BitVec 15
  /-- CONSUMED (10_state.md R38). -/
  consumed : Word
  /-- TOTAL (10_state.md R39). -/
  total : Word
  /-- The symbol matrix (10_state.md R30). -/
  grid : Grid
  /-- V0, its bits in order, position 0 first (10_state.md R35, 00_scope.md R15). -/
  v0 : List Bool
  /-- V1 (10_state.md R35). -/
  v1 : List Bool
  /-- V2 (10_state.md R35). -/
  v2 : List Bool
  /-- V3 (10_state.md R35). -/
  v3 : List Bool
  /-- The model's own: how many times the cells have been left unspecified, the index of the next
  draw of `Config.freeCell` (notes/assumptions/2.md). -/
  draws : Nat
  /-- The model's own: the host's accesses still to come, the next one first
  (notes/assumptions/3.md). The host's sequence of accesses is the program (10_state.md R40). -/
  host : List HostEvent
  /-- The model's own: the words that the host's reads have returned, oldest first, which is what a
  program observes (30_encoding.md R69, notes/assumptions/3.md). -/
  observed : List Word
  deriving DecidableEq, Repr

/-- The state right after reset of an instance with the given parameters (70_reset_and_hazards.md R200),
with no access of the host pending. -/
def State.resetWith (p : Params) : State where
  params := p
  err := false
  ecode := 0#4
  cfg := 0#32
  dim := BitVec.ofNat 5 p.nmax
  opa := 0#32
  opb := 0#32
  res := 0#32
  fmt := 0#15
  consumed := 0#32
  total := 0#32
  grid := Grid.drawn p.nmax 0
  v0 := []
  v1 := []
  v2 := []
  v3 := []
  draws := 1
  host := []
  observed := []

/-- The state right after reset of the instance with the spec's default parameters
(notes/assumptions/1.md). -/
def State.reset : State := State.resetWith Params.standard

/-- How a step can stop with a fault. A raise of 60_exceptions.md R180 is none of these: it is a next
state. -/
inductive Fault where
  /-- A read of STATUS while ECODE holds a reserved code, 12 to 15. The spec never writes one and asks
  a model that meets one to fault (93_implementation_defined.md I16, notes/assumptions/7.md). Raised
  by `hostRead` (Machine/Command.lean). Safe: no run from reset reaches it. -/
  | reservedErrorCode
  deriving DecidableEq, Repr

/-- How a step can be refused. -/
inductive Refusal where
  /-- Raised by an arm of `exec` whose instruction has no meaning yet; there is none. Safe. -/
  | notModelled (mnemonic : String)
  /-- A host access at an offset that is no multiple of 4 (20_memory.md R52). Raised by `busTarget`
  (Machine/Command.lean). Safe: the spec gives the access no step. -/
  | misalignedAccess
  /-- A host access that is not 32 bits wide (20_memory.md R52). Raised by `busTarget`. Safe: the spec
  gives the access no step. -/
  | accessWidth
  /-- A host access at an offset that no register of 10_state.md R21 has (10_state.md R43, 20_memory.md
  R52). Raised by `busTarget`. Safe: the spec gives the access no step. -/
  | unassignedOffset
  deriving DecidableEq, Repr

end Sys2Proof.Machine
end

