-- ==== Sys2Proof/Machine/Flags.lean ====
section
/-!
DEFINITION. STATUS, the one register of flags (10_state.md R23, R24), and the error codes of
60_exceptions.md R181. No command sets a flag but through a raise (10_state.md R41).
-/

namespace Sys2Proof.Machine

/-- The ECODE of an error (60_exceptions.md R181). -/
def ErrorKind.code : ErrorKind → BitVec 4
  | .invalidMaskPattern => 1#4
  | .invalidVersionLevelCombination => 2#4
  | .structuralOverwrite => 3#4
  | .malformedConstantPattern => 4#4
  | .dataOverflow => 5#4
  | .postconditionViolation => 6#4
  | .outOfBounds => 7#4
  | .illegalCommand => 8#4
  | .invalidPolynomial => 9#4
  | .vectorLengthMismatch => 10#4
  | .vectorOverflow => 11#4

/-- Whether an ECODE is reserved, 12 to 15 (60_exceptions.md R181). -/
def reservedCode (e : BitVec 4) : Bool := decide (12 ≤ e.toNat)

/-- STATUS as the host reads it: ERR in bit 0, ECODE in bits 11:8, every other bit 0 (10_state.md
R23, R24). -/
def statusWord (err : Bool) (ecode : BitVec 4) : Word :=
  0#20 ++ ecode ++ 0#7 ++ BitVec.ofBool err

end Sys2Proof.Machine
end

