-- ==== Sys2Proof/Machine/Operands.lean ====
section
/-!
DEFINITION. The operand forms: the fields of CFG, the vector registers, cell codes, and the two
operations on bit vectors (10_state.md R25, R31, R35; 00_scope.md R15).
-/

namespace Sys2Proof.Machine

/-- VERSION = CFG[2:0] (10_state.md R25). -/
def cfgVersion (cfg : Word) : BitVec 3 := cfg.extractLsb' 0 3

/-- ECL = CFG[5:4] (10_state.md R25). -/
def cfgEcl (cfg : Word) : BitVec 2 := cfg.extractLsb' 4 2

/-- maskv = sext_4(CFG[11:8]), in -8..7 (10_state.md R25). -/
def cfgMaskv (cfg : Word) : Int := (cfg.extractLsb' 8 4).toInt

/-- The legal mask identifiers {0,1,2,3} (00_scope.md R13): the identifier that maskv names, none
outside the set. -/
def maskIdentifier (maskv : Int) : Option (Fin 4) :=
  if maskv = 0 then some 0
  else if maskv = 1 then some 1
  else if maskv = 2 then some 2
  else if maskv = 3 then some 3
  else none

/-- The two-bit code of a cell (10_state.md R31). -/
def cellCode : Cell → BitVec 2
  | .light => 0#2
  | .dark => 1#2
  | .empty => 2#2
  | .invalid => 3#2

/-- `code(b)` of 10_state.md R31: LIGHT for 0 and DARK for 1. -/
def codeOfBit (b : Bool) : Cell := if b then .dark else .light

/-- `V[r]` of 00_scope.md R16: the bits of a vector register, position 0 first. -/
def State.vec (s : State) : VReg → List Bool
  | .v0 => s.v0
  | .v1 => s.v1
  | .v2 => s.v2
  | .v3 => s.v3

/-- `V[r] <- bits`. -/
def State.setVec (s : State) (r : VReg) (bits : List Bool) : State :=
  match r with
  | .v0 => { s with v0 := bits }
  | .v1 => { s with v1 := bits }
  | .v2 => { s with v2 := bits }
  | .v3 => { s with v3 := bits }

/-- The low-order n bits of w, the most significant of them first (00_scope.md R15). -/
def lowBits (n w : Nat) : List Bool :=
  (List.range n).map fun k => w.testBit (n - 1 - k)

/-- A bit vector with the low-order n bits of w appended (00_scope.md R15, 42_bitvector.md R111). -/
def appendBits (bv : List Bool) (w n : Nat) : List Bool := bv ++ lowBits n w

/-- The position-wise exclusive-or of two vectors of equal length (42_bitvector.md R112). -/
def xorBits (a b : List Bool) : List Bool := List.zipWith xor a b

/-- A bit vector read as an integer, position 0 its most significant bit (00_scope.md R15). -/
def bitsValue (bv : List Bool) : Nat := bv.foldl (fun n b => 2 * n + b.toNat) 0

end Sys2Proof.Machine
end

