-- ==== Sys2Proof/Machine/Ops.lean ====
section
/-!
DEFINITION. The named operations over the state that the commands share: the updates of one register
each, raising an error and returning from one (60_exceptions.md R180, R185), and how a command ends.
-/

namespace Sys2Proof.Machine

/-- RES <- w (10_state.md R36). -/
def State.setRes (s : State) (w : Word) : State := { s with res := w }

/-- FMT <- f (10_state.md R37). -/
def State.setFmt (s : State) (f : BitVec 15) : State := { s with fmt := f }

/-- CONSUMED and TOTAL, written at the same point (10_state.md R38, R39). -/
def State.setCounts (s : State) (consumed total : Word) : State :=
  { s with consumed := consumed, total := total }

/-- The matrix's cells. -/
def State.setGrid (s : State) (g : Grid) : State := { s with grid := g }

/-- OPA <- w (10_state.md R33). -/
def State.setOpa (s : State) (w : Word) : State := { s with opa := w }

/-- OPB <- w (10_state.md R34). -/
def State.setOpb (s : State) (w : Word) : State := { s with opb := w }

/-- CFG <- w & 0x00000F37 (10_state.md R26). -/
def State.setCfg (s : State) (w : Word) : State := { s with cfg := w &&& 0x00000F37#32 }

/-- A host write of w to DIM (10_state.md R27): a legal value is stored and leaves every cell
unspecified (R28, notes/assumptions/2.md); any other is ignored. -/
def State.setDim (s : State) (w : Word) : State :=
  let v : BitVec 5 := w.extractLsb' 0 5
  if 1 ≤ v.toNat ∧ v.toNat ≤ s.params.nmax then
    { s with dim := v, grid := Grid.drawn s.params.nmax s.draws, draws := s.draws + 1 }
  else s

/-- The host's accesses still to come. -/
def State.setHost (s : State) (es : List HostEvent) : State := { s with host := es }

/-- A read of the host returns w. -/
def State.observe (s : State) (w : Word) : State := { s with observed := s.observed ++ [w] }

/-- Taking the block's one kind of exception: `raise e` sets ERR and writes the error's code, and
writes no other register (60_exceptions.md R180). Cells written before it stay written
(notes/assumptions/8.md). -/
def State.raise (s : State) (e : ErrorKind) : State := { s with err := true, ecode := e.code }

/-- Returning from an error: ERR and ECODE are 0 again (60_exceptions.md R185). -/
def State.clearError (s : State) : State := { s with err := false, ecode := 0#4 }

/-- Every cell EMPTY, ERR and ECODE 0: what CLEAR does (41_matrix.md R100) and what ENCODE begins
with (47_encode.md R165). -/
def State.clearMatrix (s : State) : State := (s.setGrid (Grid.cleared s.params.nmax)).clearError

/-- DIM as a number. -/
def State.side (s : State) : Nat := s.dim.toNat

/-- How a command, or a stage of one, ends: it has made all its writes, or it has stopped at an error
with the writes made before it (30_encoding.md R63, 60_exceptions.md R180). -/
inductive Ending (α : Type) where
  | done (a : α)
  | failed (e : ErrorKind) (a : α)
  deriving DecidableEq, Repr

/-- One stage after another: the first that fails ends the whole (47_encode.md R165). -/
def Ending.andThen {α : Type} (r : Ending α) (f : α → Ending α) : Ending α :=
  match r with
  | .done a => f a
  | .failed e a => .failed e a

/-- An ending over a part of the state, as an ending over the state. -/
def Ending.map {α β : Type} (f : α → β) : Ending α → Ending β
  | .done a => .done (f a)
  | .failed e a => .failed e (f a)

/-- The state a command leaves: an error is raised on top of the writes already made (60_exceptions.md
R180). -/
def Ending.settle : Ending State → State
  | .done s => s
  | .failed e s => s.raise e

/-- A command's outcome. Both endings complete the CMD write (60_exceptions.md R180), so both are a
next state. -/
def complete (r : Ending State) : Host.Outcome State Fault Refusal := .next r.settle

end Sys2Proof.Machine
end

