-- ==== Sys2Proof/Machine/Cells.lean ====
section
/-!
DEFINITION. The symbol matrix commands CLEAR, GET and SET (41_matrix.md R100 to R102).
-/

namespace Sys2Proof.Machine

/-- CLEAR (41_matrix.md R100): every cell EMPTY, inactive ones included, and ERR and ECODE 0. -/
def execClear (s : State) : Host.Outcome State Fault Refusal := complete (.done s.clearMatrix)

/-- Whether (x, y) lies outside the active region (10_state.md R30): each coordinate is compared with
DIM separately (41_matrix.md R101). -/
def State.outside (s : State) (x y : BitVec 8) : Bool :=
  decide (s.side ≤ x.toNat) || decide (s.side ≤ y.toNat)

/-- The body of GET (41_matrix.md R101). -/
def getBody (x y : BitVec 8) (s : State) : Ending State :=
  if s.outside x y then .failed .outOfBounds s
  else .done (s.setRes ((cellCode (s.grid.cell x.toNat y.toNat)).setWidth 32))

/-- GET X, Y (41_matrix.md R101). -/
def execGet (x y : BitVec 8) (s : State) : Host.Outcome State Fault Refusal :=
  complete (getBody x y s)

/-- The body of SET (41_matrix.md R102). It overwrites any code. -/
def setBody (x y : BitVec 8) (b : Bool) (s : State) : Ending State :=
  if s.outside x y then .failed .outOfBounds s
  else .done (s.setGrid (s.grid.setCell x.toNat y.toNat (codeOfBit b)))

/-- SET X, Y, B (41_matrix.md R102). -/
def execSet (x y : BitVec 8) (b : Bool) (s : State) : Host.Outcome State Fault Refusal :=
  complete (setBody x y b s)

end Sys2Proof.Machine
end

