-- ==== Sys2Proof/Machine/Bch.lean ====
section
/-!
DEFINITION. The polynomial remainder engine: MSBPOS and BCHREM, and the functions the format encoder
uses too (44_bch.md R130 to R135).
-/

namespace Sys2Proof.Machine

/-- `msbpos` of 44_bch.md R130: the 1-based position of the highest set bit, 0 for 0. -/
def msbpos (v : Nat) : Nat := if v = 0 then 0 else v.log2 + 1

/-- The loop of 44_bch.md R131, with a bound on its iterations: while msbpos(t) >= m, exclusive-or t
with the polynomial shifted to t's top bit. -/
def reduceLoop (poly m : Nat) : Nat → Nat → Nat
  | 0, t => t
  | fuel + 1, t =>
    if m ≤ msbpos t then reduceLoop poly m fuel (t ^^^ (poly <<< (msbpos t - m))) else t

/-- `bchRemainder` of 44_bch.md R131, for poly other than 0, on unbounded naturals (R133). The loop
runs at most msbpos(value) times (R132, notes/assumptions/12.md). -/
def bchRemainder (value poly : Nat) : Nat :=
  reduceLoop poly (msbpos poly) (msbpos value) (value <<< (msbpos poly - 1))

/-- MSBPOS (44_bch.md R130): OPA is unsigned. -/
def execMsbpos (s : State) : Host.Outcome State Fault Refusal :=
  complete (.done (s.setRes (BitVec.ofNat 32 (msbpos s.opa.toNat))))

/-- The body of BCHREM (44_bch.md R131, R134). -/
def bchremBody (s : State) : Ending State :=
  if s.opb = 0#32 then .failed .invalidPolynomial s
  else .done (s.setRes (BitVec.ofNat 32 (bchRemainder s.opa.toNat s.opb.toNat)))

/-- BCHREM (44_bch.md R131). -/
def execBchrem (s : State) : Host.Outcome State Fault Refusal := complete (bchremBody s)

end Sys2Proof.Machine
end

