-- ==== Sys2Proof/Machine/Format.lean ====
section
/-!
DEFINITION. The format information encoder: FMTBITS and EMBFMT (45_format.md R138 to R146).
-/

namespace Sys2Proof.Machine

/-- The format generator polynomial (00_scope.md R13). -/
def POLY_FMT : Nat := 0x537

/-- The format mask (00_scope.md R13). -/
def FMT_MASK : Nat := 0x4445

/-- The rows of SYMTAB (45_format.md R139): version 1's one entry, whose level code is a parameter and
whose symbol number is 0, and the rows of the other versions. -/
def symtabRows (p : Params) : List SymtabRow := ⟨1, p.m1Ecl, 0⟩ :: p.symtab

/-- SYMTAB as a partial function: the symbol number of a version and level, none where the pair is
undefined (45_format.md R139). -/
def symtab (p : Params) (version : BitVec 3) (ecl : BitVec 2) : Option Nat :=
  ((symtabRows p).find? fun r => r.version == version && r.ecl == ecl).map fun r => r.symbol.toNat

/-- Steps 4 and 5 of 45_format.md R140: the 5 data bits, the 10 check bits, and the mask's
exclusive-or, by the appends of 42_bitvector.md R111 and R112 on vectors of the command's own. -/
def formatVector (d : Nat) : List Bool :=
  xorBits (appendBits (appendBits [] d 5) (bchRemainder d POLY_FMT) 10) (appendBits [] FMT_MASK 15)

/-- `computeFormatBits` of 45_format.md R140: the mask check, the table check, the vector, its length
check (step 6), and the vector read as an integer with f[14-p] = bv(p). -/
def computeFormatBits (p : Params) (ecl : BitVec 2) (version : BitVec 3) (maskv : Int) :
    Except ErrorKind (BitVec 15) :=
  match maskIdentifier maskv with
  | none => .error .invalidMaskPattern
  | some mask =>
    match symtab p version ecl with
    | none => .error .invalidVersionLevelCombination
    | some sn =>
      let bv := formatVector ((sn <<< 2) ||| mask.val)
      if bv.length ≠ 15 then .error .postconditionViolation
      else .ok (BitVec.ofNat 15 (bitsValue bv))

/-- The format field of the configuration in CFG (45_format.md R140). -/
def State.formatField (s : State) : Except ErrorKind (BitVec 15) :=
  computeFormatBits s.params (cfgEcl s.cfg) (cfgVersion s.cfg) (cfgMaskv s.cfg)

/-- The body of FMTBITS (45_format.md R140): FMT is written only when nothing is raised. -/
def fmtbitsBody (s : State) : Ending State :=
  match s.formatField with
  | .error e => .failed e s
  | .ok f => .done (s.setFmt f)

/-- FMTBITS (45_format.md R140). -/
def execFmtbits (s : State) : Host.Outcome State Fault Refusal := complete (fmtbitsBody s)

/-- FMTPOS[i], column and row (45_format.md R144, notes/assumptions/10.md). -/
def fmtPos (i : Nat) : Nat × Nat := if i < 8 then (8, i + 1) else (15 - i, 8)

/-- The 15 writes of 45_format.md R143, unconditional: bit i of the field goes to FMTPOS[i]. -/
def writeFormat (f : BitVec 15) (g : Grid) : Grid :=
  (List.range 15).foldl
    (fun g i => g.setCell (fmtPos i).1 (fmtPos i).2 (codeOfBit (f.getLsbD i))) g

/-- The body of EMBFMT (45_format.md R143): no write happens before the last check (R145). -/
def embfmtStage (s : State) : Ending State :=
  match s.formatField with
  | .error e => .failed e s
  | .ok f =>
    if s.side < 9 then .failed .outOfBounds s
    else .done ((s.setGrid (writeFormat f s.grid)).setFmt f)

/-- EMBFMT (45_format.md R143). -/
def execEmbfmt (s : State) : Host.Outcome State Fault Refusal := complete (embfmtStage s)

end Sys2Proof.Machine
end

