-- ==== Sys2Proof/Machine/Patterns.lean ====
section
/-!
DEFINITION. The pattern embedder EMBPAT (43_patterns.md R120 to R127).
-/

namespace Sys2Proof.Machine

/-- FINDER, the 7 by 7 finder pattern (43_patterns.md R123), row y = 0 first, true for DARK. UNVERIFIED:
the spec marks it as general knowledge (notes/assumptions/10.md). -/
def FINDER : List (List Bool) :=
  [ [true, true,  true,  true,  true,  true,  true],
    [true, false, false, false, false, false, true],
    [true, false, true,  true,  true,  false, true],
    [true, false, true,  true,  true,  false, true],
    [true, false, true,  true,  true,  false, true],
    [true, false, false, false, false, false, true],
    [true, true,  true,  true,  true,  true,  true] ]

/-- The source's shape check on the finder constant (43_patterns.md R126). -/
def sevenBySeven (finder : List (List Bool)) : Bool :=
  finder.length == 7 && finder.all (fun row => row.length == 7)

/-- A cell to write: column, row, code. -/
abbrev CellWrite := Nat × Nat × Cell

/-- Step 1 of 43_patterns.md R120: the finder's cells, rows first, left to right within a row. -/
def finderWrites (finder : List (List Bool)) : List CellWrite :=
  (List.range 7).flatMap fun y =>
    (List.range 7).map fun x => (x, y, codeOfBit ((finder.getD y []).getD x false))

/-- Step 2a of 43_patterns.md R120: the horizontal separator, 8 LIGHT cells in row 7 (R125). -/
def rowSeparatorWrites : List CellWrite := (List.range 8).map fun x => (x, 7, .light)

/-- Step 2b of 43_patterns.md R120: the vertical separator, 7 LIGHT cells in column 7 (R125). -/
def columnSeparatorWrites : List CellWrite := (List.range 7).map fun y => (7, y, .light)

/-- Step 3 of 43_patterns.md R120: for i = 8..DIM-1, bit (i+1) mod 2 at row 0 column i, then at column
0 row i (R124). -/
def timingWrites (dim : Nat) : List CellWrite :=
  (List.range' 8 (dim - 8)).flatMap fun i =>
    [(i, 0, codeOfBit ((i + 1) % 2 == 1)), (0, i, codeOfBit ((i + 1) % 2 == 1))]

/-- Steps 1 and 2: each cell is checked and written before the next is checked; a non-empty one raises
StructuralOverwrite, and the cells written before it stay written (43_patterns.md R122). -/
def writeFresh : List CellWrite → Grid → Ending Grid
  | [], g => .done g
  | (x, y, c) :: rest, g =>
    if g.cell x y ≠ .empty then .failed .structuralOverwrite g
    else writeFresh rest (g.setCell x y c)

/-- Step 3: an INVALID cell raises PostconditionViolation, an EMPTY one is written, any other is left
untouched (43_patterns.md R120, R124). -/
def writeTiming : List CellWrite → Grid → Ending Grid
  | [], g => .done g
  | (x, y, c) :: rest, g =>
    if g.cell x y = .invalid then .failed .postconditionViolation g
    else if g.cell x y = .empty then writeTiming rest (g.setCell x y c)
    else writeTiming rest g

/-- Steps 1 to 3 of 43_patterns.md R120 on the cells. -/
def writePatterns (finder : List (List Bool)) (dim : Nat) (g : Grid) : Ending Grid :=
  (((writeFresh (finderWrites finder) g).andThen
    (writeFresh rowSeparatorWrites)).andThen
    (writeFresh columnSeparatorWrites)).andThen
    (writeTiming (timingWrites dim))

/-- EMBPAT's body with the finder pattern as an argument (43_patterns.md R120, R123, R126): the checks,
then the writes (the order of the two checks: notes/assumptions/17.md). CFG is not read (R121). -/
def embpatStageWith (finder : List (List Bool)) (s : State) : Ending State :=
  if s.side < 8 then .failed .outOfBounds s
  else if sevenBySeven finder = false then .failed .malformedConstantPattern s
  else (writePatterns finder s.side s.grid).map s.setGrid

/-- EMBPAT's body (43_patterns.md R120). -/
def embpatStage (s : State) : Ending State := embpatStageWith FINDER s

/-- EMBPAT (43_patterns.md R120). -/
def execEmbpat (s : State) : Host.Outcome State Fault Refusal := complete (embpatStage s)

end Sys2Proof.Machine
end

