-- ==== Sys2Proof/Machine/Placer.lean ====
section
/-!
DEFINITION. The data placer EMBDATA (46_placer.md R150 to R160).
-/

namespace Sys2Proof.Machine

/-- The mask function's type (00_scope.md R11): the pattern, the column, the row. -/
abbrev MaskFn := Fin 4 → Nat → Nat → Bool

/-- The placer's hidden state (10_state.md R42): column, row, direction and the count of consumed
bits. It exists only while an EMBDATA stage runs, so it is no field of `State`
(notes/assumptions/13.md). -/
structure Traversal where
  x : Int
  y : Int
  dir : Int
  idx : Nat
  deriving DecidableEq, Repr

/-- What a placement reads and never changes: the payload, the mask pattern (none for the sentinel -1)
and the mask function. -/
structure Payload where
  bits : List Bool
  mask : Option (Fin 4)
  fn : MaskFn

/-- The bit that goes into cell (x, y) as the idx-th bit: a payload bit, or 0 once the payload is
exhausted (46_placer.md R152), flipped by the mask function unless masking is off (R153, R160). -/
def Payload.bitAt (p : Payload) (idx x y : Nat) : Bool :=
  let b := p.bits.getD idx false
  match p.mask with
  | none => b
  | some m => b ^^ p.fn m x y

/-- One cell of the traversal (46_placer.md R150): a non-empty cell is skipped and consumes no bit
(R151); an empty one is written, and consumes a bit while the payload lasts (R152). -/
def placeCell (p : Payload) (x y : Nat) (gi : Grid × Nat) : Grid × Nat :=
  if gi.1.cell x y ≠ .empty then gi
  else
    (gi.1.setCell x y (codeOfBit (p.bitAt gi.2 x y)),
     if gi.2 < p.bits.length then gi.2 + 1 else gi.2)

/-- The inner loop of 46_placer.md R150 over one pair of columns, right column first, while
0 <= y < DIM. The first argument bounds its iterations: DIM are enough (R158, notes/assumptions/11.md). -/
def walkPair (p : Payload) (dim : Nat) : Nat → Traversal → Grid → Traversal × Grid
  | 0, t, g => (t, g)
  | fuel + 1, t, g =>
    if 0 ≤ t.y ∧ t.y < dim then
      let gi := placeCell p (t.x - 1).toNat t.y.toNat (placeCell p t.x.toNat t.y.toNat (g, t.idx))
      walkPair p dim fuel { t with y := t.y + t.dir, idx := gi.2 } gi.1
    else (t, g)

/-- The outer loop of 46_placer.md R150, while x > 0. The first argument bounds its iterations:
DIM are enough (R158, notes/assumptions/11.md). -/
def walkPairs (p : Payload) (dim : Nat) : Nat → Traversal → Grid → Traversal × Grid
  | 0, t, g => (t, g)
  | fuel + 1, t, g =>
    if 0 < t.x then
      let r := walkPair p dim dim t g
      walkPairs p dim fuel
        { x := r.1.x - 2, y := r.1.y + -r.1.dir, dir := -r.1.dir, idx := r.1.idx } r.2
    else (t, g)

/-- Where the traversal starts: the bottom right cell, upward, no bit consumed (46_placer.md R150). -/
def Traversal.start (dim : Nat) : Traversal :=
  { x := (dim : Int) - 1, y := (dim : Int) - 1, dir := -1, idx := 0 }

/-- The whole traversal: the cells it leaves and the count of consumed bits. -/
def place (p : Payload) (dim : Nat) (g : Grid) : Grid × Nat :=
  let r := walkPairs p dim dim (Traversal.start dim) g
  (r.2, r.1.idx)

/-- The mask check of 46_placer.md R154: none if maskv is illegal for the placer; otherwise the
pattern to apply, none inside for the no-masking sentinel -1. -/
def placerMask (maskv : Int) : Option (Option (Fin 4)) :=
  if maskv = -1 then some none else (maskIdentifier maskv).map some

/-- EMBDATA's body with the mask function as an argument (46_placer.md R150): CONSUMED and TOTAL are
written before the check that may raise DataOverflow (R156). -/
def embdataStageWith (fn : MaskFn) (vs1 : VReg) (s : State) : Ending State :=
  match placerMask (cfgMaskv s.cfg) with
  | none => .failed .invalidMaskPattern s
  | some mask =>
    let r := place ⟨s.vec vs1, mask, fn⟩ s.side s.grid
    let t := (s.setGrid r.1).setCounts (BitVec.ofNat 32 r.2) (BitVec.ofNat 32 (s.vec vs1).length)
    if r.2 ≠ (s.vec vs1).length then .failed .dataOverflow t else .done t

/-- EMBDATA's body (46_placer.md R150), with the block's mask function. -/
def embdataStage (vs1 : VReg) (s : State) : Ending State := embdataStageWith Config.maskFn vs1 s

/-- EMBDATA vs1 (46_placer.md R150). -/
def execEmbdata (vs1 : VReg) (s : State) : Host.Outcome State Fault Refusal :=
  complete (embdataStage vs1 s)

/-- The cells of the k-th pair of columns in the order the traversal visits them (46_placer.md R155):
upward for even k, downward for odd k, the right column first within each row. -/
def pairOrder (dim k : Nat) : List (Nat × Nat) :=
  (List.range dim).flatMap fun j =>
    let y := if k % 2 = 0 then dim - 1 - j else j
    [(dim - 1 - 2 * k, y), (dim - 2 - 2 * k, y)]

/-- The visiting order of 46_placer.md R155: the pairs (DIM-1, DIM-2), (DIM-3, DIM-4) and so on while
the right column is positive. The traversal itself is `walkPairs`; this list says where it goes. -/
def visitOrder (dim : Nat) : List (Nat × Nat) := (List.range (dim / 2)).flatMap (pairOrder dim)

end Sys2Proof.Machine
end

