-- ==== Sys2Proof/Machine/Encode.lean ====
section
/-!
DEFINITION. The composite command ENCODE (47_encode.md R165).
-/

namespace Sys2Proof.Machine

/-- ENCODE's body with the mask function as an argument (47_encode.md R165): clear, then the bodies of
EMBPAT, EMBFMT and EMBDATA; the first that raises ends it, and what the stages
before it wrote stays written, FMT too (notes/assumptions/9.md). -/
def encodeBodyWith (fn : MaskFn) (vs1 : VReg) (s : State) : Ending State :=
  ((embpatStage s.clearMatrix).andThen embfmtStage).andThen (embdataStageWith fn vs1)

/-- ENCODE vs1 (47_encode.md R165), with the block's mask function. -/
def execEncode (vs1 : VReg) (s : State) : Host.Outcome State Fault Refusal :=
  complete (encodeBodyWith Config.maskFn vs1 s)

end Sys2Proof.Machine
end

