-- ==== Sys2Proof/Machine/Vectors.lean ====
section
/-!
DEFINITION. The bit-vector commands VCLR, VAPP, VXOR, VGET and VLEN (42_bitvector.md R110 to R114).
-/

namespace Sys2Proof.Machine

/-- VCLR vd (42_bitvector.md R110). -/
def execVclr (vd : VReg) (s : State) : Host.Outcome State Fault Refusal :=
  complete (.done (s.setVec vd []))

/-- The body of VAPP (42_bitvector.md R111). NB above 32 has no encoding (notes/assumptions/18.md). -/
def vappBody (vd : VReg) (nb : BitVec 6) (s : State) : Ending State :=
  if s.params.vcap < (s.vec vd).length + nb.toNat then .failed .vectorOverflow s
  else .done (s.setVec vd (appendBits (s.vec vd) s.opa.toNat nb.toNat))

/-- VAPP vd, NB (42_bitvector.md R111). -/
def execVapp (vd : VReg) (nb : BitVec 6) (s : State) : Host.Outcome State Fault Refusal :=
  complete (vappBody vd nb s)

/-- The body of VXOR (42_bitvector.md R112): both sources are read before VD is written. -/
def vxorBody (vd vs1 vs2 : VReg) (s : State) : Ending State :=
  if (s.vec vs1).length ≠ (s.vec vs2).length then .failed .vectorLengthMismatch s
  else .done (s.setVec vd (xorBits (s.vec vs1) (s.vec vs2)))

/-- VXOR vd, vs1, vs2 (42_bitvector.md R112). -/
def execVxor (vd vs1 vs2 : VReg) (s : State) : Host.Outcome State Fault Refusal :=
  complete (vxorBody vd vs1 vs2 s)

/-- The body of VGET (42_bitvector.md R113): the position is OPA, unsigned. -/
def vgetBody (vs1 : VReg) (s : State) : Ending State :=
  match (s.vec vs1)[s.opa.toNat]? with
  | none => .failed .outOfBounds s
  | some b => .done (s.setRes ((BitVec.ofBool b).setWidth 32))

/-- VGET vs1 (42_bitvector.md R113). -/
def execVget (vs1 : VReg) (s : State) : Host.Outcome State Fault Refusal :=
  complete (vgetBody vs1 s)

/-- VLEN vs1 (42_bitvector.md R114). -/
def execVlen (vs1 : VReg) (s : State) : Host.Outcome State Fault Refusal :=
  complete (.done (s.setRes (BitVec.ofNat 32 (s.vec vs1).length)))

end Sys2Proof.Machine
end

