-- ==== Sys2Proof/Machine/Dispatch.lean ====
section
/-! DEFINITION. The meaning of every command, one arm each: `execute(cmd)` of 30_encoding.md R63. -/

namespace Sys2Proof.Machine

def exec (i : Instr) (s : State) : Host.Outcome State Fault Refusal :=
  match i with
  | .clear => Sys2Proof.Machine.execClear s
  | .embpat => Sys2Proof.Machine.execEmbpat s
  | .embfmt => Sys2Proof.Machine.execEmbfmt s
  | .embdata vs1 => Sys2Proof.Machine.execEmbdata vs1 s
  | .encode vs1 => Sys2Proof.Machine.execEncode vs1 s
  | .msbpos => Sys2Proof.Machine.execMsbpos s
  | .bchrem => Sys2Proof.Machine.execBchrem s
  | .fmtbits => Sys2Proof.Machine.execFmtbits s
  | .get x y => Sys2Proof.Machine.execGet x y s
  | .set x y b => Sys2Proof.Machine.execSet x y b s
  | .vclr vd => Sys2Proof.Machine.execVclr vd s
  | .vapp vd nb => Sys2Proof.Machine.execVapp vd nb s
  | .vxor vd vs1 vs2 => Sys2Proof.Machine.execVxor vd vs1 vs2 s
  | .vget vs1 => Sys2Proof.Machine.execVget vs1 s
  | .vlen vs1 => Sys2Proof.Machine.execVlen vs1 s

end Sys2Proof.Machine
end

