-- ==== Sys2Proof/Machine/Command.lean ====
section
/-!
DEFINITION. The register block: what a host access does (10_state.md R21 to R43, 20_memory.md R50 to
R57), and the dispatch of a command written to CMD (30_encoding.md R63).
-/

namespace Sys2Proof.Machine

/-- The host-visible registers (10_state.md R21). -/
inductive HostReg where
  | cmd
  | status
  | cfg
  | dim
  | opa
  | opb
  | res
  | fmt
  | consumed
  | total
  deriving DecidableEq, Repr

/-- The byte offset of a register (10_state.md R21). -/
def HostReg.offset : HostReg → BitVec 6
  | .cmd => 0x00#6
  | .status => 0x04#6
  | .cfg => 0x08#6
  | .dim => 0x0C#6
  | .opa => 0x10#6
  | .opb => 0x14#6
  | .res => 0x18#6
  | .fmt => 0x1C#6
  | .consumed => 0x20#6
  | .total => 0x24#6

/-- Every register of the block. -/
def HostReg.all : List HostReg :=
  [.cmd, .status, .cfg, .dim, .opa, .opb, .res, .fmt, .consumed, .total]

/-- The register at a byte offset, none where the table of 10_state.md R21 has no row. -/
def HostReg.at (offset : BitVec 6) : Option HostReg :=
  HostReg.all.find? fun r => r.offset == offset

/-- What a host access reaches: a register, or a refusal (20_memory.md R52, 10_state.md R43). -/
inductive BusTarget where
  | register (r : HostReg)
  | refused (why : Refusal)
  deriving DecidableEq, Repr

/-- The bus rule of 20_memory.md R52: an access is refused when its offset is no multiple of 4, its
width is not 32 bits, or no register has its offset. Which name an access gets that breaks several of
these is the model's (notes/assumptions/5.md). -/
def busTarget (offset : BitVec 6) (bits : Nat) : BusTarget :=
  if offset.toNat % 4 ≠ 0 then .refused .misalignedAccess
  else if bits ≠ 32 then .refused .accessWidth
  else
    match HostReg.at offset with
    | none => .refused .unassignedOffset
    | some r => .register r

/-- Whether a command is accepted while ERR = 1: only CLEAR and ENCODE are (30_encoding.md R63). -/
def acceptedInError : Instr → Bool
  | .clear => true
  | .encode _ => true
  | .embpat => false
  | .embfmt => false
  | .embdata _ => false
  | .msbpos => false
  | .bchrem => false
  | .fmtbits => false
  | .get _ _ => false
  | .set _ _ _ => false
  | .vclr _ => false
  | .vapp _ _ => false
  | .vxor _ _ _ => false
  | .vget _ => false
  | .vlen _ => false

/-- A host write of w to CMD (30_encoding.md R63): decode, ignore what ERR = 1 does not accept, raise
IllegalCommand on an ILLEGAL word, or execute (notes/assumptions/19.md). -/
def issue (w : Word) (s : State) : Host.Outcome State Fault Refusal :=
  match decode w with
  | .command i => if s.err && !acceptedInError i then .next s else exec i s
  | .illegal _ => if s.err then .next s else .next (s.raise .illegalCommand)

/-- A host write of w to a register (10_state.md R21, 20_memory.md R54): to CMD it executes a command,
to a read-only register it is ignored, to CFG, DIM, OPA or OPB it is stored. -/
def hostWrite (r : HostReg) (w : Word) (s : State) : Host.Outcome State Fault Refusal :=
  match r with
  | .cmd => issue w s
  | .cfg => .next (s.setCfg w)
  | .dim => .next (s.setDim w)
  | .opa => .next (s.setOpa w)
  | .opb => .next (s.setOpb w)
  | .status => .next s
  | .res => .next s
  | .fmt => .next s
  | .consumed => .next s
  | .total => .next s

/-- The word a register reads as (10_state.md R21 to R39): CMD reads as 0, and bits a register does
not use read as 0. -/
def readWord (r : HostReg) (s : State) : Word :=
  match r with
  | .cmd => 0#32
  | .status => statusWord s.err s.ecode
  | .cfg => s.cfg
  | .dim => s.dim.setWidth 32
  | .opa => s.opa
  | .opb => s.opb
  | .res => s.res
  | .fmt => s.fmt.setWidth 32
  | .consumed => s.consumed
  | .total => s.total

/-- A host read of a register: it returns the register's word and has no side effect (20_memory.md
R54). A reserved ECODE, which nothing writes, faults when STATUS is read
(93_implementation_defined.md I16). -/
def hostRead (r : HostReg) (s : State) : Host.Outcome State Fault Refusal :=
  if r = .status ∧ reservedCode s.ecode = true then .fault .reservedErrorCode
  else .next (s.observe (readWord r s))

/-- A reset between accesses (70_reset_and_hazards.md R200): the engine's state as after reset, each
cell a fresh draw (notes/assumptions/2.md), and the parameters stay. The host's pending accesses and what it has read are
outside the block, and stay. -/
def hostReset (s : State) : State :=
  { State.resetWith s.params with
    grid := Grid.drawn s.params.nmax s.draws
    draws := s.draws + 1
    host := s.host
    observed := s.observed }

/-- One event of the host. -/
def serve (e : HostEvent) (s : State) : Host.Outcome State Fault Refusal :=
  match e with
  | .write offset bits data =>
    match busTarget offset bits with
    | .refused why => .refused why
    | .register r => hostWrite r data s
  | .read offset bits =>
    match busTarget offset bits with
    | .refused why => .refused why
    | .register r => hostRead r s
  | .reset => .next (hostReset s)

/-- The host access that carries a command word: a write of it to CMD (10_state.md R22). -/
def cmdWrite (w : Word) : HostEvent := .write HostReg.cmd.offset 32 w

/-- The word of an instruction numbered as spec/opcode_table.json numbers it. -/
def tableWord (nbits w : Nat) : Word := BitVec.ofNat 32 (w % 2 ^ nbits)

end Sys2Proof.Machine
end

