-- ==== Sys2Proof/Machine/Step.lean ====
section
/-!
DEFINITION. One step of the machine: the next access of the host, whole (20_memory.md R53, R57).
-/

namespace Sys2Proof.Machine

/-- One step: the block serves the host's next access, from its start to its completion (20_memory.md
R53). With none pending the block waits and holds its state (60_exceptions.md R193,
70_reset_and_hazards.md R201). -/
def step (s : State) : Host.Outcome State Fault Refusal :=
  match s.host with
  | [] => .next s
  | e :: rest => serve e (s.setHost rest)

/-- s with a CMD write of the given word as the host's next access: the block fetches no commands, a
command is consumed by the CMD write that carries it (10_state.md R40, notes/assumptions/3.md). -/
def State.withFetchWord (s : State) (nbits w : Nat) : State :=
  s.setHost (cmdWrite (tableWord nbits w) :: s.host)

end Sys2Proof.Machine
end

