-- ==== Sys2Proof/Machine/Assembly.lean ====
section
/-!
DEFINITION. The notation of host programs (30_encoding.md R69, R70) as data: statements, the host
accesses they assemble to, and the pseudo-instructions' expansions. The characters of the notation are
not modelled (notes/assumptions/15.md).
-/

namespace Sys2Proof.Machine

/-- A statement (30_encoding.md R69). -/
inductive Stmt where
  /-- `wr REG, imm32` -/
  | wr (r : HostReg) (imm : Word)
  /-- `rd REG` -/
  | rd (r : HostReg)
  /-- `clear`, `embpat`, `set X, Y, B`, ...: a command by its mnemonic and operands -/
  | command (i : Instr)
  /-- `cmd imm32`: a raw word, legal or not -/
  | cmd (imm : Word)
  deriving DecidableEq, Repr

/-- The host access a statement assembles to: a command statement is `wr CMD, <word>` with the word of
its format and opcode (30_encoding.md R69). -/
def Stmt.assemble : Stmt → HostEvent
  | .wr r imm => .write r.offset 32 imm
  | .rd r => .read r.offset 32
  | .command i => cmdWrite (Sys2Proof.encode i)
  | .cmd imm => cmdWrite imm

/-- A pseudo-instruction (30_encoding.md R70). -/
inductive Pseudo where
  /-- `cfg V, E, M` -/
  | cfg (v e m : Int)
  /-- `bch A, P` -/
  | bch (a p : Word)
  /-- `msb A` -/
  | msb (a : Word)
  /-- `vload vD, A, N` -/
  | vload (vd : VReg) (a : Word) (n : BitVec 6)
  /-- `vnew vD, A, N` -/
  | vnew (vd : VReg) (a : Word) (n : BitVec 6)
  deriving DecidableEq, Repr

/-- The word of `cfg V, E, M`: (V & 7) + ((E & 3) << 4) + ((M & 0xF) << 8) (30_encoding.md R70). -/
def cfgWord (v e m : Int) : Word :=
  (BitVec.ofInt 32 v &&& 7#32) + ((BitVec.ofInt 32 e &&& 3#32) <<< 4)
    + ((BitVec.ofInt 32 m &&& 0xF#32) <<< 8)

/-- The statements a pseudo-instruction expands to, in order (30_encoding.md R70). -/
def Pseudo.expand : Pseudo → List Stmt
  | .cfg v e m => [.wr .cfg (cfgWord v e m)]
  | .bch a p => [.wr .opa a, .wr .opb p, .command .bchrem]
  | .msb a => [.wr .opa a, .command .msbpos]
  | .vload vd a n => [.wr .opa a, .command (.vapp vd n)]
  | .vnew vd a n => [.command (.vclr vd), .wr .opa a, .command (.vapp vd n)]

end Sys2Proof.Machine
end

