-- ==== Sys2Proof/Safety.lean ====
section
/-!
DEFINITION. What claims about the machine are stated in: the states a run can be in (the invariant
`Inv`), the accesses the bus permits, and the parts of the matrix the rules of 43_patterns.md,
45_format.md and 46_placer.md speak of.
-/

namespace Sys2Proof.Machine

/-- What holds in every state that a run of an instance from its reset can reach. -/
structure Inv (s : State) : Prop where
  /-- The parameters are legal (00_scope.md R9, R10, R12). -/
  params_legal : s.params.legal
  /-- ECODE = 0 whenever ERR = 0, and a raise writes a code other than 0 (10_state.md R24). -/
  code_zero : s.err = false ↔ s.ecode = 0#4
  /-- Codes 12 to 15 are never written (60_exceptions.md R181). -/
  code_assigned : reservedCode s.ecode = false
  /-- CFG bits 3, 7:6 and 31:12 are 0 (10_state.md R25). -/
  cfg_reserved : s.cfg &&& ~~~0x00000F37#32 = 0#32
  /-- DIM is 1..NMAX (10_state.md R27). -/
  dim_legal : 1 ≤ s.side ∧ s.side ≤ s.params.nmax
  /-- The matrix has the cells of NMAX rows and columns, and no other (10_state.md R30). -/
  storage : s.grid.fits s.params.nmax
  /-- A vector register's length is 0..VCAP (10_state.md R35). -/
  vec_length : ∀ r : VReg, (s.vec r).length ≤ s.params.vcap
  /-- Consumed <= total (46_placer.md R156). -/
  counts : s.consumed.toNat ≤ s.total.toNat

/-- Whether the bus serves an event: an aligned whole-word access to a register of the block
(20_memory.md R52), or a reset. -/
def HostEvent.permitted : HostEvent → Bool
  | .write offset bits _ => decide (offset.toNat % 4 = 0 ∧ bits = 32 ∧ offset.toNat ≤ 0x24)
  | .read offset bits => decide (offset.toNat % 4 = 0 ∧ bits = 32 ∧ offset.toNat ≤ 0x24)
  | .reset => true

/-- k steps of the machine. -/
def runFor (k : Nat) (s : State) : Host.Outcome State Fault Refusal := Sys2Proof.core.run k s

/-- Two outcomes that differ at most in the matrix of their next states: what a program observes, and
how it stops, is the same. -/
def sameButCells : Host.Outcome State Fault Refusal → Host.Outcome State Fault Refusal → Prop
  | .next s, .next t => s.setGrid t.grid = t
  | .fault e, .fault f => e = f
  | .refused e, .refused f => e = f
  | .next _, .fault _ => False
  | .next _, .refused _ => False
  | .fault _, .next _ => False
  | .fault _, .refused _ => False
  | .refused _, .next _ => False
  | .refused _, .fault _ => False

/-- The must-be-zero bits of a command word, by its opcode (30_encoding.md R65): none for a reserved
opcode. -/
def mustBeZero (opc : BitVec 8) : Option Word :=
  if opc ∈ [0x01#8, 0x02#8, 0x03#8, 0x08#8, 0x09#8, 0x0A#8] then some 0x00FFFFFF#32
  else if opc ∈ [0x04#8, 0x05#8, 0x1B#8, 0x1C#8] then some 0x00CFFFFF#32
  else if opc = 0x10#8 then some 0x00FF0000#32
  else if opc = 0x11#8 then some 0x00FE0000#32
  else if opc = 0x18#8 then some 0x003FFFFF#32
  else if opc = 0x19#8 then some 0x003FFFC0#32
  else if opc = 0x1A#8 then some 0x0003FFFF#32
  else none

/-- The format field in its integer form (45_format.md R141), of the 5 data bits d. -/
def formatWord (d : Nat) : Nat := ((d <<< 10) ||| bchRemainder d 0x537) ^^^ 0x4445

/-- CFG names a mask pattern m and a defined pair of version and level with symbol number sn: what the
format encoder needs (45_format.md R140). -/
def State.formatReady (s : State) (m : Fin 4) (sn : Nat) : Prop :=
  cfgMaskv s.cfg = m.val ∧ symtab s.params (cfgVersion s.cfg) (cfgEcl s.cfg) = some sn

/-- The mask's answer for a data cell, false for the sentinel -1 (46_placer.md R153, R160). -/
def maskFlip (maskv : Int) (x y : Nat) : Bool :=
  match maskIdentifier maskv with
  | none => false
  | some m => Config.maskFn m x y

/-- A cell of the finder pattern or of a separator (43_patterns.md R120 steps 1 and 2): the top left
8 by 8 cells, which the 49 + 8 + 7 of them fill. -/
def inFinderRegion (x y : Nat) : Prop := x ≤ 7 ∧ y ≤ 7

/-- A timing cell of a matrix of the given side (43_patterns.md R120 step 3). -/
def inTiming (dim x y : Nat) : Prop := (y = 0 ∧ 8 ≤ x ∧ x < dim) ∨ (x = 0 ∧ 8 ≤ y ∧ y < dim)

/-- A finder cell that is DARK: the outer ring, and the 3 by 3 centre (43_patterns.md R123). -/
def finderDark (x y : Nat) : Prop :=
  x = 0 ∨ x = 6 ∨ y = 0 ∨ y = 6 ∨ (2 ≤ x ∧ x ≤ 4 ∧ 2 ≤ y ∧ y ≤ 4)

/-- The active EMPTY cells (46_placer.md R157), row by row. -/
def emptyCells (dim : Nat) (g : Grid) : List (Nat × Nat) :=
  ((List.range dim).flatMap fun y => (List.range dim).map fun x => (x, y)).filter
    fun c => g.cell c.1 c.2 == .empty

/-- The cells that the placer writes, in the order in which it writes them: the EMPTY cells of its
visiting order (46_placer.md R151, R155). -/
def placerCells (dim : Nat) (g : Grid) : List (Nat × Nat) :=
  (visitOrder dim).filter fun c => g.cell c.1 c.2 == .empty

/-- A cell of a symbol's data region: outside the finder region, the timing cells and the format cells,
that is outside row 0, column 0 and the top left 9 by 9 cells (43_patterns.md R120, 45_format.md R144). -/
def isDataCell (x y : Nat) : Bool := 1 ≤ x && 1 ≤ y && (9 ≤ x || 9 ≤ y)

/-- The data cells of a symbol of side at least 9, in the order in which the placer fills them
(46_placer.md R155). -/
def dataCells (dim : Nat) : List (Nat × Nat) := (visitOrder dim).filter fun c => isDataCell c.1 c.2

end Sys2Proof.Machine
end

