-- ==== Sys2Proof/Certificates/Slice0/Obligations.lean ====
section
/-!
DEFINITION. The statements about the machine. Each formalises the rules its docstring names.
-/

open Sys2Proof Sys2Proof.Machine

/-! ### Encoding (30_encoding.md) -/

/-- Decoding the word of a well-formed command gives the command back, whatever its operands
(30_encoding.md R61, R62, R64). -/
def Obligations.DecodeInvertsEncode : Prop :=
  ∀ i : Instr, i.wellFormed = true → decode (encode i) = .command i

/-- A word that decodes to a command is the word of that command, and the command is well-formed: no
two words decode to one command (30_encoding.md R65, R66). -/
def Obligations.EncodeInvertsDecode : Prop :=
  ∀ (w : Word) (i : Instr), decode w = .command i → encode i = w ∧ i.wellFormed = true

/-- A word with an assigned opcode and a must-be-zero bit set is ILLEGAL, and a word decodes to a
command only if it equals some row's match on every bit of its mask (30_encoding.md R65). -/
def Obligations.MustBeZeroBitsAreIllegal : Prop :=
  (∀ (w m : Word), mustBeZero (fieldOpc w) = some m → w &&& m ≠ 0#32 →
    ∃ why, decode w = .illegal why) ∧
  ∀ (w : Word) (i : Instr), decode w = .command i →
    ∃ r ∈ opTable, w &&& r.mask = r.pattern ∧ i = readFields r.op w

/-- The 241 opcodes that no row of the table has are reserved, and decode as ILLEGAL (30_encoding.md
R66, R68). -/
def Obligations.ReservedOpcodesAreIllegal : Prop :=
  ∀ w : Word, fieldOpc w ∉ [0x01#8, 0x02#8, 0x03#8, 0x04#8, 0x05#8, 0x08#8, 0x09#8, 0x0A#8, 0x10#8,
      0x11#8, 0x18#8, 0x19#8, 0x1A#8, 0x1B#8, 0x1C#8] →
    ∃ why, decode w = .illegal why

/-- VAPP with NB in 33..63 decodes as ILLEGAL (30_encoding.md R67). -/
def Obligations.WideAppendIsIllegal : Prop :=
  ∀ (vd : VReg) (nb : BitVec 6), 33 ≤ nb.toNat →
    ∃ why, decode (0x19000000#32 ||| ((vregField vd).setWidth 32 <<< 22) ||| nb.setWidth 32) =
      .illegal why

/-- Words written out from the spec's formats decode to the commands they stand for (30_encoding.md
R61, R64, R69; 95_test_vectors.md T15). -/
def Obligations.WrittenWordsDecode : Prop :=
  decode 0x01000000#32 = .command .clear ∧
  decode 0x04100000#32 = .command (.embdata .v1) ∧
  decode 0x05300000#32 = .command (.encode .v3) ∧
  decode 0x0A000000#32 = .command .fmtbits ∧
  decode 0x11010304#32 = .command (.set 3#8 4#8 true) ∧
  decode 0x19C00020#32 = .command (.vapp .v3 32#6) ∧
  decode 0x1AE40000#32 = .command (.vxor .v3 .v2 .v1) ∧
  decode 0x1AD80000#32 = .command (.vxor .v3 .v1 .v2)

/-! ### The register block and the step (10_state.md, 20_memory.md) -/

/-- A host write of w to CMD (30_encoding.md R63): a step that serves it runs the decoded command on
the state with the access taken off the host's list, ignores all but CLEAR and ENCODE while ERR = 1,
and raises IllegalCommand on an ILLEGAL word while ERR = 0. -/
def Obligations.CmdWriteDispatch : Prop :=
  ∀ (s : State) (w : Word) (rest : List HostEvent), s.host = .write 0x00#6 32 w :: rest →
    (∀ i, decode w = .command i → (s.err = false ∨ i = .clear ∨ ∃ v, i = .encode v) →
      step s = exec i { s with host := rest }) ∧
    (∀ i, decode w = .command i → s.err = true → i ≠ .clear → (∀ v, i ≠ .encode v) →
      step s = .next { s with host := rest }) ∧
    (∀ why, decode w = .illegal why → s.err = true → step s = .next { s with host := rest }) ∧
    (∀ why, decode w = .illegal why → s.err = false →
      step s = .next { s with host := rest, err := true, ecode := 8#4 })

/-- Between commands the block holds its state unchanged (60_exceptions.md R193). -/
def Obligations.WaitingBlockHoldsState : Prop :=
  ∀ s : State, s.host = [] → step s = .next s

/-- A step serves exactly one access, in the host's order, and nothing the engine does adds or drops
one (20_memory.md R53, R57, R59). That the pending accesses stand in State is the model's choice
(notes/assumptions/3.md). -/
def Obligations.StepServesOneAccess : Prop :=
  ∀ s t : State, step s = .next t → t.host = s.host.tail

/-- A host access is refused exactly when its offset is no multiple of 4, its width is not 32 bits, or
its offset is not in the register table (20_memory.md R52). -/
def Obligations.RefusedAccesses : Prop :=
  ∀ (s : State) (offset : BitVec 6) (bits : Nat) (data : Word) (rest : List HostEvent),
    (s.host = .write offset bits data :: rest ∨ s.host = .read offset bits :: rest) →
    ((∃ why, step s = .refused why) ↔ offset.toNat % 4 ≠ 0 ∨ bits ≠ 32 ∨ 0x24 < offset.toNat)

/-- From a state that meets the invariant, a host that makes only permitted accesses is served for
ever: no run of the machine stops (20_memory.md R52, R56; 60_exceptions.md R189). -/
def Obligations.PermittedAccessesNeverStop : Prop :=
  ∀ (k : Nat) (s : State), Inv s → (∀ e ∈ s.host, e.permitted = true) → ∃ t, runFor k s = .next t

/-- What each register reads as (10_state.md R21 to R39), and that a read changes nothing but what the
host has observed (20_memory.md R54). STATUS is read with an assigned code, as in every state that
meets the invariant. -/
def Obligations.HostReadsReturnRegisters : Prop :=
  ∀ (s : State) (offset : BitVec 6) (rest : List HostEvent) (w : Word),
    s.host = .read offset 32 :: rest →
    (offset = 0x00#6 ∧ w = 0#32 ∨
      offset = 0x04#6 ∧ s.ecode.toNat < 12 ∧
        w = (s.ecode.setWidth 32 <<< 8) ||| (BitVec.ofBool s.err).setWidth 32 ∨
      offset = 0x08#6 ∧ w = s.cfg ∨ offset = 0x0C#6 ∧ w = s.dim.setWidth 32 ∨
      offset = 0x10#6 ∧ w = s.opa ∨ offset = 0x14#6 ∧ w = s.opb ∨ offset = 0x18#6 ∧ w = s.res ∨
      offset = 0x1C#6 ∧ w = s.fmt.setWidth 32 ∨ offset = 0x20#6 ∧ w = s.consumed ∨
      offset = 0x24#6 ∧ w = s.total) →
    step s = .next { s with host := rest, observed := s.observed ++ [w] }

/-- A read of STATUS faults exactly on the reserved codes 12 to 15, which the spec never writes
(93_implementation_defined.md I16); with every assigned code it does not. That it is the read of STATUS
that faults is the model's choice (notes/assumptions/7.md). -/
def Obligations.ReservedErrorCodeFaults : Prop :=
  ∀ (s : State) (rest : List HostEvent), s.host = .read 0x04#6 32 :: rest →
    (step s = .fault .reservedErrorCode ↔ 12 ≤ s.ecode.toNat)

/-- CFG (10_state.md R26): a write keeps the bits of 0x00000F37, it changes nothing else, and no
command writes CFG. -/
def Obligations.CfgRegister : Prop :=
  (∀ (s : State) (w : Word) (rest : List HostEvent), s.host = .write 0x08#6 32 w :: rest →
    step s = .next { s with host := rest, cfg := w &&& 0x00000F37#32 }) ∧
  ∀ (i : Instr) (s t : State), exec i s = .next t → t.cfg = s.cfg

/-- DIM (10_state.md R27): a write of a legal value v = w[4:0] stores it, any other write has no
effect; no command writes DIM; it reads as its 5 bits with bits 31:5 zero; it is NMAX after reset. A
legal write may change the cells, of which nothing is said (R28), and changes no other register. -/
def Obligations.DimRegister : Prop :=
  (∀ (s : State) (w : Word) (rest : List HostEvent), s.host = .write 0x0C#6 32 w :: rest →
    (1 ≤ w.toNat % 32 ∧ w.toNat % 32 ≤ s.params.nmax →
      ∃ t, step s = .next t ∧ t.dim.toNat = w.toNat % 32 ∧
        t = { s with host := rest, dim := t.dim, grid := t.grid, draws := t.draws }) ∧
    (¬(1 ≤ w.toNat % 32 ∧ w.toNat % 32 ≤ s.params.nmax) → step s = .next { s with host := rest })) ∧
  (∀ (i : Instr) (s t : State), exec i s = .next t → t.dim = s.dim) ∧
  (∀ (s : State) (rest : List HostEvent), s.host = .read 0x0C#6 32 :: rest →
    ∃ w : Word, w.toNat = s.dim.toNat ∧
      step s = .next { s with host := rest, observed := s.observed ++ [w] }) ∧
  ∀ p : Params, (State.resetWith p).dim.toNat = p.nmax

/-- OPA and OPB (10_state.md R33, R34): the host writes all 32 bits and nothing else changes, no
command writes them, and they are 0 after reset. -/
def Obligations.OperandRegisters : Prop :=
  (∀ (s : State) (w : Word) (rest : List HostEvent), s.host = .write 0x10#6 32 w :: rest →
    step s = .next { s with host := rest, opa := w }) ∧
  (∀ (s : State) (w : Word) (rest : List HostEvent), s.host = .write 0x14#6 32 w :: rest →
    step s = .next { s with host := rest, opb := w }) ∧
  (∀ (i : Instr) (s t : State), exec i s = .next t → t.opa = s.opa ∧ t.opb = s.opb) ∧
  State.reset.opa = 0#32 ∧ State.reset.opb = 0#32

/-- RES (10_state.md R36): only MSBPOS, BCHREM, GET, VGET and VLEN write it, a command that raises
leaves it unchanged, host writes to it are ignored, and it is 0 after reset. -/
def Obligations.ResultRegister : Prop :=
  (∀ (i : Instr) (s t : State), exec i s = .next t → t.res ≠ s.res →
    i = .msbpos ∨ i = .bchrem ∨ (∃ x y, i = .get x y) ∨ (∃ v, i = .vget v) ∨ ∃ v, i = .vlen v) ∧
  (∀ (i : Instr) (s t : State), s.err = false → exec i s = .next t → t.err = true →
    t.res = s.res) ∧
  (∀ (s : State) (w : Word) (rest : List HostEvent), s.host = .write 0x18#6 32 w :: rest →
    step s = .next { s with host := rest }) ∧
  State.reset.res = 0#32

/-- FMT: only FMTBITS, EMBFMT and ENCODE (whose stage 2 is EMBFMT) write it, FMTBITS and EMBFMT only
when they complete without raising, host writes to it are ignored, and it is 0 after reset
(10_state.md R37; 47_encode.md R165). -/
def Obligations.FormatRegister : Prop :=
  (∀ (i : Instr) (s t : State), exec i s = .next t → t.fmt ≠ s.fmt →
    i = .fmtbits ∨ i = .embfmt ∨ ∃ v, i = .encode v) ∧
  (∀ (i : Instr) (s t : State), i = .fmtbits ∨ i = .embfmt → s.err = false → exec i s = .next t →
    t.err = true → t.fmt = s.fmt) ∧
  (∀ (s : State) (w : Word) (rest : List HostEvent), s.host = .write 0x1C#6 32 w :: rest →
    step s = .next { s with host := rest }) ∧
  State.reset.fmt = 0#15

/-- CONSUMED and TOTAL: only an EMBDATA stage (EMBDATA or ENCODE) writes them, it writes the payload's
length into TOTAL, and an error other than DataOverflow leaves both unchanged; host writes are ignored;
both are 0 after reset (10_state.md R38, R39; 46_placer.md R156). -/
def Obligations.CountRegisters : Prop :=
  (∀ (i : Instr) (s t : State), exec i s = .next t →
    (t.consumed ≠ s.consumed ∨ t.total ≠ s.total) →
      ∃ v, (i = .embdata v ∨ i = .encode v) ∧ t.total = BitVec.ofNat 32 (s.vec v).length) ∧
  (∀ (i : Instr) (s t : State), s.err = false → exec i s = .next t → t.err = true → t.ecode ≠ 5#4 →
    t.consumed = s.consumed ∧ t.total = s.total) ∧
  (∀ (s : State) (w : Word) (rest : List HostEvent),
    s.host = .write 0x20#6 32 w :: rest ∨ s.host = .write 0x24#6 32 w :: rest →
    step s = .next { s with host := rest }) ∧
  State.reset.consumed = 0#32 ∧ State.reset.total = 0#32

/-- STATUS: a host write to it is ignored; ERR is sticky: a step that leaves ERR = 1 for 0, or changes
the code of an error already set, serves CLEAR, ENCODE or a reset (10_state.md R23, R24). -/
def Obligations.ErrorIsSticky : Prop :=
  (∀ (s : State) (w : Word) (rest : List HostEvent), s.host = .write 0x04#6 32 w :: rest →
    step s = .next { s with host := rest }) ∧
  ∀ s t : State, s.err = true → step s = .next t → (t.err = false ∨ t.ecode ≠ s.ecode) →
    ∃ rest, s.host = .reset :: rest ∨
      ∃ w, s.host = .write 0x00#6 32 w :: rest ∧
        (decode w = .command .clear ∨ ∃ v, decode w = .command (.encode v))

/-- The error codes (60_exceptions.md R181), and what raising an error changes: ERR and ECODE, no other
register (R180). -/
def Obligations.ErrorCodes : Prop :=
  [ErrorKind.invalidMaskPattern, .invalidVersionLevelCombination, .structuralOverwrite,
    .malformedConstantPattern, .dataOverflow, .postconditionViolation, .outOfBounds, .illegalCommand,
    .invalidPolynomial, .vectorLengthMismatch, .vectorOverflow].map (fun e => e.code.toNat)
      = [1, 2, 3, 4, 5, 6, 7, 8, 9, 10, 11] ∧
  ∀ (s : State) (e : ErrorKind), s.raise e = { s with err := true, ecode := e.code }

/-- The state after reset (70_reset_and_hazards.md R200), of an instance with any parameters: at the
start, and after a reset that comes between two accesses. The cells are unspecified, and nothing is said
of them. That such a reset keeps the pending accesses and the observed words, and that the parameters
stand in State, are the model's choices (notes/assumptions/3.md, 1.md). -/
def Obligations.ResetValues : Prop :=
  (∀ t : State, (∃ p, t = State.resetWith p) ∨
      (∃ (s : State) (rest : List HostEvent), s.host = .reset :: rest ∧ step s = .next t) →
    t.err = false ∧ t.ecode = 0#4 ∧ t.cfg = 0#32 ∧ t.dim.toNat = t.params.nmax ∧ t.opa = 0#32 ∧
      t.opb = 0#32 ∧ t.res = 0#32 ∧ t.fmt = 0#15 ∧ t.consumed = 0#32 ∧ t.total = 0#32 ∧
      ∀ v, (t.vec v).length = 0) ∧
  ∀ (s : State) (rest : List HostEvent), s.host = .reset :: rest →
    ∃ t, step s = .next t ∧ t.host = rest ∧ t.observed = s.observed

/-- The invariant holds after reset, of every instance with legal parameters, and so of the one with the
spec's defaults (10_state.md R24, R25, R27, R30, R35; 00_scope.md R9, R10, R12). -/
def Obligations.ResetMeetsInv : Prop :=
  (∀ p : Params, p.legal → Inv (State.resetWith p)) ∧ Inv State.reset

/-- Every step keeps the invariant: ECODE is 0 exactly when ERR is 0 and is an assigned code, CFG's
reserved bits are 0, DIM is legal, the matrix has no cell beyond NMAX, no vector register is longer than
VCAP, CONSUMED <= TOTAL, and the parameters are legal (10_state.md R24, R25, R27, R30, R35; 46_placer.md
R156; 60_exceptions.md R181). -/
def Obligations.StepKeepsInv : Prop :=
  ∀ s t : State, Inv s → step s = .next t → Inv t

/-! ### The symbol matrix (41_matrix.md) -/

/-- CLEAR (41_matrix.md R100): all NMAX by NMAX cells become EMPTY, ERR and ECODE 0, nothing else
changes. -/
def Obligations.ClearEmptiesTheMatrix : Prop :=
  decode 0x01000000#32 = .command .clear ∧
  ∀ s : State, ∃ g, exec .clear s = .next { s with err := false, ecode := 0#4, grid := g } ∧
    ∀ x y, x < s.params.nmax → y < s.params.nmax → g.cell x y = .empty

/-- GET (41_matrix.md R101): the cell's code goes to RES, and a coordinate that is not below DIM raises
OutOfBounds; nothing else changes. -/
def Obligations.GetReadsOneCell : Prop :=
  (∀ x y : BitVec 8,
    decode (0x10000000#32 ||| (x.setWidth 32 <<< 8) ||| y.setWidth 32) = .command (.get x y)) ∧
  (∀ (x y : BitVec 8) (s : State), x.toNat < s.dim.toNat → y.toNat < s.dim.toNat →
    exec (.get x y) s = .next { s with
      res := match s.grid.cell x.toNat y.toNat with
        | .light => 0#32
        | .dark => 1#32
        | .empty => 2#32
        | .invalid => 3#32 }) ∧
  ∀ (x y : BitVec 8) (s : State), s.dim.toNat ≤ x.toNat ∨ s.dim.toNat ≤ y.toNat →
    exec (.get x y) s = .next { s with err := true, ecode := 7#4 }

/-- SET (41_matrix.md R102): the cell becomes LIGHT or DARK whatever it held, every other cell and
register is unchanged, and a coordinate that is not below DIM raises OutOfBounds. -/
def Obligations.SetWritesOneCell : Prop :=
  (∀ (x y : BitVec 8) (b : Bool),
    decode (0x11000000#32 ||| ((BitVec.ofBool b).setWidth 32 <<< 16) ||| (x.setWidth 32 <<< 8)
      ||| y.setWidth 32) = .command (.set x y b)) ∧
  (∀ (x y : BitVec 8) (b : Bool) (s : State),
    x.toNat < s.dim.toNat → y.toNat < s.dim.toNat →
    ∃ g, exec (.set x y b) s = .next { s with grid := g } ∧
      g.cell x.toNat y.toNat = (if b then .dark else .light) ∧
      ∀ x' y', ¬(x' = x.toNat ∧ y' = y.toNat) → g.cell x' y' = s.grid.cell x' y') ∧
  ∀ (x y : BitVec 8) (b : Bool) (s : State), s.dim.toNat ≤ x.toNat ∨ s.dim.toNat ≤ y.toNat →
    exec (.set x y b) s = .next { s with err := true, ecode := 7#4 }

/-- No command ever writes INVALID: a cell that holds it after a command held it before (10_state.md
R31). -/
def Obligations.NoCommandWritesInvalid : Prop :=
  ∀ (i : Instr) (s t : State) (x y : Nat), exec i s = .next t →
    x < s.params.nmax → y < s.params.nmax →
    t.grid.cell x y = .invalid → s.grid.cell x y = .invalid

/-! ### The vector registers (42_bitvector.md) -/

/-- VCLR (42_bitvector.md R110): V[VD] becomes empty, nothing else changes. -/
def Obligations.VclrEmptiesOneVector : Prop :=
  (∀ vd : VReg,
    decode (0x18000000#32 ||| ((vregField vd).setWidth 32 <<< 22)) = .command (.vclr vd)) ∧
  ∀ (vd : VReg) (s : State), ∃ t, exec (.vclr vd) s = .next t ∧ t.vec vd = [] ∧
    (∀ r, r ≠ vd → t.vec r = s.vec r) ∧
    t = { s with v0 := t.v0, v1 := t.v1, v2 := t.v2, v3 := t.v3 }

/-- VAPP (42_bitvector.md R111): the low NB bits of OPA are appended, the most significant of them
first; a result longer than VCAP raises VectorOverflow and changes nothing else. -/
def Obligations.VappAppendsLowBits : Prop :=
  (∀ (vd : VReg) (nb : BitVec 6), nb.toNat ≤ 32 →
    decode (0x19000000#32 ||| ((vregField vd).setWidth 32 <<< 22) ||| nb.setWidth 32) =
      .command (.vapp vd nb)) ∧
  (∀ (vd : VReg) (nb : BitVec 6) (s : State), nb.toNat ≤ 32 →
    (s.vec vd).length + nb.toNat ≤ s.params.vcap →
    ∃ t, exec (.vapp vd nb) s = .next t ∧
      (t.vec vd).length = (s.vec vd).length + nb.toNat ∧
      (∀ p, p < (s.vec vd).length → (t.vec vd)[p]? = (s.vec vd)[p]?) ∧
      (∀ k, k < nb.toNat →
        (t.vec vd)[(s.vec vd).length + k]? = some (s.opa.getLsbD (nb.toNat - 1 - k))) ∧
      (∀ r, r ≠ vd → t.vec r = s.vec r) ∧
      t = { s with v0 := t.v0, v1 := t.v1, v2 := t.v2, v3 := t.v3 }) ∧
  ∀ (vd : VReg) (nb : BitVec 6) (s : State), nb.toNat ≤ 32 →
    s.params.vcap < (s.vec vd).length + nb.toNat →
    exec (.vapp vd nb) s = .next { s with err := true, ecode := 11#4 }

/-- VXOR (42_bitvector.md R112): the position-wise exclusive-or of two vectors of one length, both read
before VD is written; different lengths raise VectorLengthMismatch and change nothing else. -/
def Obligations.VxorCombinesVectors : Prop :=
  (∀ vd vs1 vs2 : VReg,
    decode (0x1A000000#32 ||| ((vregField vd).setWidth 32 <<< 22)
      ||| ((vregField vs1).setWidth 32 <<< 20) ||| ((vregField vs2).setWidth 32 <<< 18)) =
      .command (.vxor vd vs1 vs2)) ∧
  (∀ (vd vs1 vs2 : VReg) (s : State), (s.vec vs1).length = (s.vec vs2).length →
    ∃ t, exec (.vxor vd vs1 vs2) s = .next t ∧ (t.vec vd).length = (s.vec vs1).length ∧
      (∀ (p : Nat) (a b : Bool), (s.vec vs1)[p]? = some a → (s.vec vs2)[p]? = some b →
        (t.vec vd)[p]? = some (a ^^ b)) ∧
      (∀ r, r ≠ vd → t.vec r = s.vec r) ∧
      t = { s with v0 := t.v0, v1 := t.v1, v2 := t.v2, v3 := t.v3 }) ∧
  ∀ (vd vs1 vs2 : VReg) (s : State), (s.vec vs1).length ≠ (s.vec vs2).length →
    exec (.vxor vd vs1 vs2) s = .next { s with err := true, ecode := 10#4 }

/-- VGET (42_bitvector.md R113): the bit at position OPA goes to RES; a position not below the length
raises OutOfBounds; nothing else changes. -/
def Obligations.VgetReadsOneBit : Prop :=
  (∀ vs1 : VReg,
    decode (0x1B000000#32 ||| ((vregField vs1).setWidth 32 <<< 20)) = .command (.vget vs1)) ∧
  (∀ (vs1 : VReg) (s : State) (b : Bool), (s.vec vs1)[s.opa.toNat]? = some b →
    exec (.vget vs1) s = .next { s with res := if b then 1#32 else 0#32 }) ∧
  ∀ (vs1 : VReg) (s : State), (s.vec vs1).length ≤ s.opa.toNat →
    exec (.vget vs1) s = .next { s with err := true, ecode := 7#4 }

/-- VLEN (42_bitvector.md R114): the length goes to RES, whole, and nothing else changes. The length is
at most VCAP by the invariant. -/
def Obligations.VlenReadsLength : Prop :=
  (∀ vs1 : VReg,
    decode (0x1C000000#32 ||| ((vregField vs1).setWidth 32 <<< 20)) = .command (.vlen vs1)) ∧
  ∀ (vs1 : VReg) (s : State), (s.vec vs1).length ≤ s.params.vcap →
    ∃ r : Word, r.toNat = (s.vec vs1).length ∧ exec (.vlen vs1) s = .next { s with res := r }

/-- No command changes a vector register it only reads (42_bitvector.md R115): only VCLR, VAPP and VXOR
change one, and only the one they name as VD. -/
def Obligations.VectorsReadAreNotChanged : Prop :=
  ∀ (i : Instr) (s t : State) (r : VReg), exec i s = .next t → t.vec r ≠ s.vec r →
    i = .vclr r ∨ (∃ nb, i = .vapp r nb) ∨ ∃ a b, i = .vxor r a b

/-! ### The pattern embedder (43_patterns.md) -/

/-- EMBPAT on a matrix whose finder and separator cells are EMPTY and whose timing cells are not
INVALID (43_patterns.md R120, R123, R124, R125): the finder's rings, the light separators, the timing
bit (i+1) mod 2 in the timing cells that were EMPTY; every other cell and register is unchanged. -/
def Obligations.EmbpatEmbedsPatterns : Prop :=
  decode 0x02000000#32 = .command .embpat ∧
  ∀ s : State, 8 ≤ s.dim.toNat →
    (∀ x y, inFinderRegion x y → s.grid.cell x y = .empty) →
    (∀ x y, inTiming s.dim.toNat x y → s.grid.cell x y ≠ .invalid) →
    ∃ g, exec .embpat s = .next { s with grid := g } ∧
      (∀ x y, x < 7 → y < 7 → finderDark x y → g.cell x y = .dark) ∧
      (∀ x y, x < 7 → y < 7 → ¬finderDark x y → g.cell x y = .light) ∧
      (∀ x, x < 8 → g.cell x 7 = .light) ∧
      (∀ y, y < 7 → g.cell 7 y = .light) ∧
      (∀ x y, inTiming s.dim.toNat x y → s.grid.cell x y = .empty →
        g.cell x y = if (x + y + 1) % 2 = 1 then .dark else .light) ∧
      (∀ x y, inTiming s.dim.toNat x y → s.grid.cell x y ≠ .empty →
        g.cell x y = s.grid.cell x y) ∧
      ∀ x y, ¬inFinderRegion x y → ¬inTiming s.dim.toNat x y → g.cell x y = s.grid.cell x y

/-- Which error one EMBPAT reports (43_patterns.md R127): OutOfBounds for DIM < 8 before any write;
else StructuralOverwrite if a finder or separator cell is non-empty; else PostconditionViolation if a
timing cell is INVALID. Only cells may have changed when it raises. -/
def Obligations.EmbpatErrorOrder : Prop :=
  (∀ s : State, s.dim.toNat < 8 →
    exec .embpat s = .next { s with err := true, ecode := 7#4 }) ∧
  (∀ s : State, 8 ≤ s.dim.toNat →
    (∃ x y, inFinderRegion x y ∧ s.grid.cell x y ≠ .empty) →
    ∃ g, exec .embpat s = .next { s with grid := g, err := true, ecode := 3#4 }) ∧
  ∀ s : State, 8 ≤ s.dim.toNat →
    (∀ x y, inFinderRegion x y → s.grid.cell x y = .empty) →
    (∃ x y, inTiming s.dim.toNat x y ∧ s.grid.cell x y = .invalid) →
    ∃ g, exec .embpat s = .next { s with grid := g, err := true, ecode := 6#4 }

/-- EMBPAT's result depends only on DIM and the matrix (43_patterns.md R121): on two states that agree
in both, the cells and the error agree. -/
def Obligations.EmbpatReadsOnlyDimAndCells : Prop :=
  ∀ s s' t t' : State, s.dim = s'.dim → s.grid = s'.grid → s.err = false → s'.err = false →
    s.ecode = s'.ecode → exec .embpat s = .next t → exec .embpat s' = .next t' →
    t.grid = t'.grid ∧ t.err = t'.err ∧ t.ecode = t'.ecode

/-- MalformedConstantPattern (43_patterns.md R126): no command raises it, and EMBPAT with a finder
constant of another shape raises it before it writes anything. -/
def Obligations.MalformedPatternOnlyIfSubstituted : Prop :=
  (∀ (i : Instr) (s t : State), exec i s = .next t → t.ecode = 4#4 → s.ecode = 4#4) ∧
  ∀ (finder : List (List Bool)) (s : State), 8 ≤ s.dim.toNat →
    (finder.length ≠ 7 ∨ ∃ row ∈ finder, row.length ≠ 7) →
    embpatStageWith finder s = .failed .malformedConstantPattern s

/-! ### The polynomial remainder engine (44_bch.md) -/

/-- MSBPOS (44_bch.md R130): RES is 0 for OPA = 0, else the 1-based position of OPA's highest set bit;
nothing else changes. -/
def Obligations.MsbposFindsHighestBit : Prop :=
  decode 0x08000000#32 = .command .msbpos ∧
  ∀ s : State, ∃ r : Word, exec .msbpos s = .next { s with res := r } ∧
    (s.opa = 0#32 → r = 0#32) ∧
    (s.opa ≠ 0#32 → 1 ≤ r.toNat ∧ r.toNat ≤ 32 ∧ s.opa.getLsbD (r.toNat - 1) = true ∧
      (∀ j, r.toNat ≤ j → s.opa.getLsbD j = false) ∧
      2 ^ (r.toNat - 1) ≤ s.opa.toNat ∧ s.opa.toNat < 2 ^ r.toNat)

/-- The polynomial over GF(2) that a natural stands for: n(x) is the sum of n[i] x^i (44_bch.md R132). -/
noncomputable def Sys2Proof.Machine.gf2 (n : Nat) : Polynomial (ZMod 2) :=
  (Finset.range (n.log2 + 1)).sum fun i => if n.testBit i then Polynomial.X ^ i else 0

/-- The GF(2) law of BCHREM (44_bch.md R132), on every value and every polynomial but 0: the result is
value(x) x^(m-1) mod poly(x), it is below 2^(m-1), each loop step lowers the top bit of t, and the loop
has ended within msbpos(value) iterations. -/
def Obligations.BchRemainderIsPolynomialRemainder : Prop :=
  ∀ value poly : Nat, poly ≠ 0 →
    gf2 (bchRemainder value poly) =
      (gf2 value * Polynomial.X ^ (msbpos poly - 1)) % gf2 poly ∧
    bchRemainder value poly < 2 ^ (msbpos poly - 1) ∧
    (∀ t, msbpos poly ≤ msbpos t →
      msbpos (t ^^^ (poly <<< (msbpos t - msbpos poly))) < msbpos t) ∧
    ∀ fuel, msbpos value ≤ fuel →
      reduceLoop poly (msbpos poly) fuel (value <<< (msbpos poly - 1)) = bchRemainder value poly

/-- BCHREM (44_bch.md R131, R134): RES holds the remainder of OPA by OPB exactly, with bit 31 = 0, and
nothing else changes; OPB = 0 raises InvalidPolynomial. The corner cases are R131's. -/
def Obligations.BchremWritesRemainder : Prop :=
  decode 0x09000000#32 = .command .bchrem ∧
  (∀ s : State, s.opb ≠ 0#32 →
    ∃ r : Word, exec .bchrem s = .next { s with res := r } ∧
      r.toNat = bchRemainder s.opa.toNat s.opb.toNat ∧ r.getLsbD 31 = false ∧
      (s.opa = 0#32 ∨ s.opb = 1#32 ∨ s.opa = s.opb → r = 0#32)) ∧
  ∀ s : State, s.opb = 0#32 → exec .bchrem s = .next { s with err := true, ecode := 9#4 }

/-! ### The format encoder (45_format.md) -/

/-- SYMTAB is a parameter (00_scope.md R12): with the default rows it is the table of 45_format.md R139,
whatever level code keys version 1's entry, and undefined on every other pair; with any legal rows it is
those rows and version 1's one entry, symbol number 0, and undefined on every other pair. The numbers are
in [0,7]. That the level code may be 3 (H), for version 1's entry or for a row, where R139 calls ECL = H
undefined at any version, is the model's choice (notes/assumptions/20.md), and so is which other rows are
legal (notes/assumptions/21.md). -/
def Obligations.SymbolTableEntries : Prop :=
  (∀ (m1 ecl : BitVec 2) (version : BitVec 3) (sn : Nat),
    symtab { Params.standard with m1Ecl := m1 } version ecl = some sn ↔
      (version = 1#3 ∧ ecl = m1 ∧ sn = 0) ∨ (version = 2#3 ∧ ecl = 0#2 ∧ sn = 1) ∨
      (version = 2#3 ∧ ecl = 1#2 ∧ sn = 2) ∨ (version = 3#3 ∧ ecl = 0#2 ∧ sn = 3) ∨
      (version = 3#3 ∧ ecl = 1#2 ∧ sn = 4) ∨ (version = 4#3 ∧ ecl = 0#2 ∧ sn = 5) ∨
      (version = 4#3 ∧ ecl = 1#2 ∧ sn = 6) ∨ (version = 4#3 ∧ ecl = 2#2 ∧ sn = 7)) ∧
  (∀ (p : Params) (version : BitVec 3) (ecl : BitVec 2) (sn : Nat), p.legal →
    (symtab p version ecl = some sn ↔
      (version = 1#3 ∧ ecl = p.m1Ecl ∧ sn = 0) ∨
      ∃ r ∈ p.symtab, r.version = version ∧ r.ecl = ecl ∧ r.symbol.toNat = sn)) ∧
  ∀ (p : Params) (version : BitVec 3) (ecl : BitVec 2) (sn : Nat),
    symtab p version ecl = some sn → sn ≤ 7

/-- FMTBITS (45_format.md R141): with a legal mask and a defined pair, FMT is
((d << 10) | bchRemainder(d, 0x537)) ^ 0x4445 for d = (sn << 2) | maskv, which is never 0; nothing else
changes. -/
def Obligations.FmtbitsWritesField : Prop :=
  decode 0x0A000000#32 = .command .fmtbits ∧
  ∀ (s : State) (m : Fin 4) (sn : Nat), s.formatReady m sn →
    ∃ f : BitVec 15, exec .fmtbits s = .next { s with fmt := f } ∧
      f.toNat = ((((sn <<< 2) ||| m.val) <<< 10) ||| bchRemainder ((sn <<< 2) ||| m.val) 0x537)
        ^^^ 0x4445 ∧
      f ≠ 0#15

/-- The error order of FMTBITS and EMBFMT (45_format.md R145): a mask outside {0,1,2,3} raises
InvalidMaskPattern; else an undefined pair raises InvalidVersionLevelCombination; else, EMBFMT alone,
DIM < 9 raises OutOfBounds. A raise leaves the matrix and FMT as they were. -/
def Obligations.FormatErrorOrder : Prop :=
  (∀ (i : Instr) (s : State), i = .fmtbits ∨ i = .embfmt →
    ¬(0 ≤ cfgMaskv s.cfg ∧ cfgMaskv s.cfg ≤ 3) →
    exec i s = .next { s with err := true, ecode := 1#4 }) ∧
  (∀ (i : Instr) (s : State), i = .fmtbits ∨ i = .embfmt →
    0 ≤ cfgMaskv s.cfg ∧ cfgMaskv s.cfg ≤ 3 →
    symtab s.params (cfgVersion s.cfg) (cfgEcl s.cfg) = none →
    exec i s = .next { s with err := true, ecode := 2#4 }) ∧
  ∀ (s : State) (m : Fin 4) (sn : Nat), s.formatReady m sn → s.dim.toNat < 9 →
    exec .embfmt s = .next { s with err := true, ecode := 7#4 }

/-- The round-trip law (45_format.md R146): of every field f that FMTBITS writes, u = f ^ 0x4445 has
the remainder of its first 5 bits as its last 10, and its first 5 bits are (sn << 2) | maskv. -/
def Obligations.FormatFieldRoundTrip : Prop :=
  ∀ (s t : State) (m : Fin 4) (sn : Nat), s.formatReady m sn → exec .fmtbits s = .next t →
    let u := t.fmt.toNat ^^^ 0x4445
    bchRemainder (u >>> 10) 0x537 = u &&& 0x3FF ∧ u >>> 10 = (sn <<< 2) ||| m.val

/-- EMBFMT (45_format.md R143, R144): bit i of the field goes to (8, i+1) for i = 0..7 and to
(15-i, 8) for i = 8..14, whatever the cells held, and FMT gets the field; every other cell and register
is unchanged. -/
def Obligations.EmbfmtWritesFormatCells : Prop :=
  decode 0x03000000#32 = .command .embfmt ∧
  ∀ (s : State) (m : Fin 4) (sn : Nat), s.formatReady m sn → 9 ≤ s.dim.toNat →
    ∃ (f : BitVec 15) (g : Grid), exec .embfmt s = .next { s with grid := g, fmt := f } ∧
      f.toNat = formatWord ((sn <<< 2) ||| m.val) ∧
      (∀ i, i < 8 → g.cell 8 (i + 1) = if f.getLsbD i then .dark else .light) ∧
      (∀ i, 8 ≤ i → i < 15 → g.cell (15 - i) 8 = if f.getLsbD i then .dark else .light) ∧
      ∀ x y, ¬(x = 8 ∧ 1 ≤ y ∧ y ≤ 8) → ¬(y = 8 ∧ 1 ≤ x ∧ x ≤ 7) → g.cell x y = s.grid.cell x y

/-- The format length check never fails (45_format.md R142): the vector has 15 bits, and neither FMTBITS
nor EMBFMT raises PostconditionViolation. -/
def Obligations.FormatLengthAlwaysFifteen : Prop :=
  (∀ d : Nat, (formatVector d).length = 15) ∧
  ∀ (i : Instr) (s t : State), i = .fmtbits ∨ i = .embfmt → exec i s = .next t → t.ecode = 6#4 →
    s.ecode = 6#4

/-! ### The data placer (46_placer.md) -/

/-- The traversal of 46_placer.md R150 visits the cells in the order of R155: the two nested loops,
which carry x, y and dir, place the same bits as going down the list of visited cells. -/
def Obligations.TraversalFollowsVisitingOrder : Prop :=
  ∀ (p : Payload) (dim : Nat) (g : Grid),
    place p dim g = (visitOrder dim).foldl (fun gi c => placeCell p c.1 c.2 gi) (g, 0)

/-- EMBDATA with a payload no longer than its cells (46_placer.md R150 to R153, R155, R160): the k-th
EMPTY cell of the visiting order gets the k-th payload bit, or 0 once the payload is exhausted, flipped
by the mask function's answer unless maskv = -1; CONSUMED and TOTAL are the payload's length; no other
cell and no other register changes. Which mask function it is, is left free (00_scope.md R11). -/
def Obligations.EmbdataPlacesPayload : Prop :=
  (∀ vs1 : VReg,
    decode (0x04000000#32 ||| ((vregField vs1).setWidth 32 <<< 20)) = .command (.embdata vs1)) ∧
  ∀ (vs1 : VReg) (s : State), -1 ≤ cfgMaskv s.cfg → cfgMaskv s.cfg ≤ 3 →
    (s.vec vs1).length ≤ (placerCells s.dim.toNat s.grid).length →
    ∃ g, exec (.embdata vs1) s = .next { s with
        grid := g
        consumed := BitVec.ofNat 32 (s.vec vs1).length
        total := BitVec.ofNat 32 (s.vec vs1).length } ∧
      (∀ (k x y : Nat), (placerCells s.dim.toNat s.grid)[k]? = some (x, y) →
        g.cell x y =
          if (s.vec vs1).getD k false ^^ maskFlip (cfgMaskv s.cfg) x y then .dark else .light) ∧
      ∀ x y, (x, y) ∉ placerCells s.dim.toNat s.grid → g.cell x y = s.grid.cell x y

/-- EMBDATA with a payload longer than its cells (46_placer.md R156): DataOverflow, with CONSUMED the
number of cells it could fill and TOTAL the payload's length; every one of those cells has been
written, and no other cell or register changes. The cells counted are the EMPTY ones that the traversal
visits (notes/assumptions/14.md). -/
def Obligations.EmbdataOverflowReportsCounts : Prop :=
  ∀ (vs1 : VReg) (s : State), -1 ≤ cfgMaskv s.cfg → cfgMaskv s.cfg ≤ 3 →
    (placerCells s.dim.toNat s.grid).length < (s.vec vs1).length →
    ∃ g, exec (.embdata vs1) s = .next { s with
        grid := g
        err := true
        ecode := 5#4
        consumed := BitVec.ofNat 32 (placerCells s.dim.toNat s.grid).length
        total := BitVec.ofNat 32 (s.vec vs1).length } ∧
      (∀ x y, (x, y) ∈ placerCells s.dim.toNat s.grid →
        g.cell x y = .light ∨ g.cell x y = .dark) ∧
      ∀ x y, (x, y) ∉ placerCells s.dim.toNat s.grid → g.cell x y = s.grid.cell x y

/-- EMBDATA checks maskv before any write (46_placer.md R154): outside {-1, 0, 1, 2, 3} it raises
InvalidMaskPattern, also when no cell is EMPTY, and nothing else changes. -/
def Obligations.EmbdataChecksMaskFirst : Prop :=
  ∀ (vs1 : VReg) (s : State), ¬(-1 ≤ cfgMaskv s.cfg ∧ cfgMaskv s.cfg ≤ 3) →
    exec (.embdata vs1) s = .next { s with err := true, ecode := 1#4 }

/-- With the no-masking sentinel (46_placer.md R160) the result does not depend on the mask function, and
the k-th EMPTY cell of the visiting order gets the k-th payload bit unmodified, LIGHT once the payload
is exhausted, however the stage ends. -/
def Obligations.SentinelPlacesBitsUnmodified : Prop :=
  (∀ (f f' : MaskFn) (vs1 : VReg) (s : State), cfgMaskv s.cfg = -1 →
    embdataStageWith f vs1 s = embdataStageWith f' vs1 s) ∧
  ∀ (f : MaskFn) (vs1 : VReg) (s : State) (k x y : Nat), cfgMaskv s.cfg = -1 →
    (placerCells s.dim.toNat s.grid)[k]? = some (x, y) →
    (embdataStageWith f vs1 s).settle.grid.cell x y =
      if (s.vec vs1).getD k false then .dark else .light

/-- The capacity (46_placer.md R157): on DIM >= 9 after CLEAR, EMBPAT and EMBFMT, the EMPTY cells number
DIM^2 - 49 - 15 - 2(DIM - 8) - 15, and the placer visits every one of them, which is what makes the
model's reading of the capacity agree (notes/assumptions/14.md). -/
def Obligations.CapacityAfterPatterns : Prop :=
  ∀ (s a b c : State) (m : Fin 4) (sn : Nat), s.formatReady m sn → 9 ≤ s.dim.toNat →
    s.dim.toNat ≤ s.params.nmax → exec .clear s = .next a → exec .embpat a = .next b →
    exec .embfmt b = .next c →
    (emptyCells s.dim.toNat c.grid).length + 49 + 15 + 2 * (s.dim.toNat - 8) + 15
      = s.dim.toNat * s.dim.toNat ∧
    (placerCells s.dim.toNat c.grid).length = (emptyCells s.dim.toNat c.grid).length

/-! ### The composite command (47_encode.md) -/

/-- ENCODE builds the symbol (47_encode.md R165): for DIM >= 9, a legal mask, a defined pair and a payload
within the capacity it leaves ERR = 0, the format field in FMT and the payload's length in CONSUMED and
TOTAL, whatever ERR and the cells were before, and no other register changes. The finder, separator and
timing cells hold the patterns, the format cells the field, the k-th data cell of the visiting order the
k-th payload bit, 0 once the payload is exhausted, flipped by the mask function's answer, and the cells
outside the active region are EMPTY. -/
def Obligations.EncodeBuildsSymbol : Prop :=
  (∀ vs1 : VReg,
    decode (0x05000000#32 ||| ((vregField vs1).setWidth 32 <<< 20)) = .command (.encode vs1)) ∧
  ∀ (vs1 : VReg) (s : State) (m : Fin 4) (sn : Nat), s.formatReady m sn → 9 ≤ s.dim.toNat →
    s.dim.toNat ≤ s.params.nmax →
    (s.vec vs1).length + 79 + 2 * (s.dim.toNat - 8) ≤ s.dim.toNat * s.dim.toNat →
    ∃ (g : Grid) (f : BitVec 15), exec (.encode vs1) s = .next { s with
        grid := g
        err := false
        ecode := 0#4
        fmt := f
        consumed := BitVec.ofNat 32 (s.vec vs1).length
        total := BitVec.ofNat 32 (s.vec vs1).length } ∧
      f.toNat = formatWord ((sn <<< 2) ||| m.val) ∧
      (∀ x y, x < 7 → y < 7 → finderDark x y → g.cell x y = .dark) ∧
      (∀ x y, x < 7 → y < 7 → ¬finderDark x y → g.cell x y = .light) ∧
      (∀ x, x < 8 → g.cell x 7 = .light) ∧
      (∀ y, y < 7 → g.cell 7 y = .light) ∧
      (∀ x y, inTiming s.dim.toNat x y →
        g.cell x y = if (x + y + 1) % 2 = 1 then .dark else .light) ∧
      (∀ i, i < 8 → g.cell 8 (i + 1) = if f.getLsbD i then .dark else .light) ∧
      (∀ i, 8 ≤ i → i < 15 → g.cell (15 - i) 8 = if f.getLsbD i then .dark else .light) ∧
      (∀ k x y, (dataCells s.dim.toNat)[k]? = some (x, y) →
        g.cell x y = if (s.vec vs1).getD k false ^^ Config.maskFn m x y then .dark else .light) ∧
      ∀ x y, x < s.params.nmax → y < s.params.nmax → ¬(x < s.dim.toNat ∧ y < s.dim.toNat) →
        g.cell x y = .empty

/-- After an ENCODE that completes without raising, no active cell is EMPTY (47_encode.md R166). -/
def Obligations.EncodeLeavesNoEmptyCell : Prop :=
  ∀ (vs1 : VReg) (s t : State), s.dim.toNat ≤ s.params.nmax → exec (.encode vs1) s = .next t →
    t.err = false → ∀ x y, x < s.dim.toNat → y < s.dim.toNat → t.grid.cell x y ≠ .empty

/-- ENCODE equals the four commands CLEAR, EMBPAT, EMBFMT and EMBDATA, issued one after another, in
every register, every cell and the error raised (47_encode.md R168), whatever the state before. -/
def Obligations.EncodeEqualsFourCommands : Prop :=
  ∀ (vs1 : VReg) (s : State) (rest : List HostEvent),
    runFor 4 { s with host := [cmdWrite (encode .clear), cmdWrite (encode .embpat),
        cmdWrite (encode .embfmt), cmdWrite (encode (.embdata vs1))] ++ rest }
      = runFor 1 { s with host := cmdWrite (encode (.encode vs1)) :: rest }

/-- What stops an ENCODE before its last stage (47_encode.md R165, R167): DIM < 8 raises OutOfBounds at
stage 1; else a mask outside {0,1,2,3}, the sentinel -1 included, raises InvalidMaskPattern at stage 2;
else an undefined pair raises InvalidVersionLevelCombination; else DIM = 8 raises OutOfBounds. FMT,
CONSUMED and TOTAL are unchanged. DIM <= NMAX, where the clear must reach the patterns' cells, is the
invariant's. -/
def Obligations.EncodeStageErrors : Prop :=
  (∀ (vs1 : VReg) (s : State), s.dim.toNat < 8 →
    ∃ g, exec (.encode vs1) s = .next { s with grid := g, err := true, ecode := 7#4 }) ∧
  (∀ (vs1 : VReg) (s : State), 8 ≤ s.dim.toNat → s.dim.toNat ≤ s.params.nmax →
    ¬(0 ≤ cfgMaskv s.cfg ∧ cfgMaskv s.cfg ≤ 3) →
    ∃ g, exec (.encode vs1) s = .next { s with grid := g, err := true, ecode := 1#4 }) ∧
  (∀ (vs1 : VReg) (s : State), 8 ≤ s.dim.toNat → s.dim.toNat ≤ s.params.nmax →
    0 ≤ cfgMaskv s.cfg ∧ cfgMaskv s.cfg ≤ 3 →
    symtab s.params (cfgVersion s.cfg) (cfgEcl s.cfg) = none →
    ∃ g, exec (.encode vs1) s = .next { s with grid := g, err := true, ecode := 2#4 }) ∧
  ∀ (vs1 : VReg) (s : State) (m : Fin 4) (sn : Nat), s.formatReady m sn → s.dim.toNat = 8 →
    s.dim.toNat ≤ s.params.nmax →
    ∃ g, exec (.encode vs1) s = .next { s with grid := g, err := true, ecode := 7#4 }

/-- ENCODE with a payload longer than the capacity (47_encode.md R165; 46_placer.md R156):
DataOverflow at stage 3, after stage 2 has written FMT; CONSUMED is the capacity, TOTAL the payload's
length. That FMT stays written is read from R165 and R168 (notes/assumptions/9.md). -/
def Obligations.EncodeOverflow : Prop :=
  ∀ (vs1 : VReg) (s : State) (m : Fin 4) (sn : Nat), s.formatReady m sn → 9 ≤ s.dim.toNat →
    s.dim.toNat ≤ s.params.nmax →
    s.dim.toNat * s.dim.toNat < (s.vec vs1).length + 79 + 2 * (s.dim.toNat - 8) →
    ∃ g, exec (.encode vs1) s = .next { s with
        grid := g
        err := true
        ecode := 5#4
        fmt := BitVec.ofNat 15 (formatWord ((sn <<< 2) ||| m.val))
        consumed := BitVec.ofNat 32 (s.dim.toNat * s.dim.toNat - 79 - 2 * (s.dim.toNat - 8))
        total := BitVec.ofNat 32 (s.vec vs1).length }

/-! ### After an error (60_exceptions.md) -/

/-- After a raise the matrix is in a partial state that no command can observe (60_exceptions.md R183):
two states with ERR = 1 that differ only in their cells stop alike and observe the same words on every
run, however long. -/
def Obligations.PartialMatrixIsUnobservable : Prop :=
  ∀ (k : Nat) (s : State) (g : Grid), s.err = true →
    sameButCells (runFor k s) (runFor k (s.setGrid g))

/-! ### The parameters (00_scope.md section 4) -/

/-- No step changes the parameters: they are no state of the block (10_state.md R20). That they stand in
State is the model's choice (notes/assumptions/1.md). The defaults are the spec's (00_scope.md R9, R10,
R12) and legal. -/
def Obligations.ParametersAreFixed : Prop :=
  (∀ s t : State, step s = .next t → t.params = s.params) ∧
  State.reset.params.nmax.val = 17 ∧ State.reset.params.vcap.val = 512 ∧
  State.reset.params.m1Ecl = 0#2 ∧ State.reset.params.legal
end

