-- ==== Sys2Proof/Laws/Grid.lean ====
section
/-!
SUPPORT. The laws of the matrix storage: read after write, and what a cleared and a drawn matrix hold.
-/

namespace Sys2Proof.Machine

@[simp] theorem entries_getElem {α : Type} (f : Nat → α) {i : Nat} (h : i < Config.maxSide) :
    (entries f)[i]'h = f i := by
  simp [entries]

/-- Inside the storage a cell reads as its row's entry. -/
theorem Grid.cell_inside (g : Grid) {x y : Nat} (hx : x < Config.maxSide) (hy : y < Config.maxSide) :
    g.cell x y = (g[y]'hy)[x]'hx := by
  rw [Grid.cell, dif_pos ⟨hx, hy⟩]

/-- Outside the storage there is no cell. -/
theorem Grid.cell_outside (g : Grid) {x y : Nat} (h : ¬(x < Config.maxSide ∧ y < Config.maxSide)) :
    g.cell x y = .invalid := by
  rw [Grid.cell, dif_neg h]

/-- A cell reads as what was written to it, and every other cell as before. -/
theorem Grid.cell_setCell (g : Grid) {x y : Nat} (c : Cell) (hx : x < Config.maxSide)
    (hy : y < Config.maxSide) (x' y' : Nat) :
    (g.setCell x y c).cell x' y' = if x' = x ∧ y' = y then c else g.cell x' y' := by
  by_cases hin : x' < Config.maxSide ∧ y' < Config.maxSide
  · rw [Grid.cell_inside _ hin.1 hin.2, Grid.setCell, dif_pos ⟨hx, hy⟩, Grid.cell_inside _ hin.1 hin.2,
      Vector.getElem_set]
    by_cases hyy : y = y'
    · subst hyy
      rw [if_pos rfl, Vector.getElem_set]
      by_cases hxx : x = x'
      · simp [hxx]
      · simp [hxx, Ne.symm hxx]
    · simp [hyy, Ne.symm hyy]
  · have hne : ¬(x' = x ∧ y' = y) := by
      rintro ⟨rfl, rfl⟩
      exact hin ⟨hx, hy⟩
    rw [Grid.cell_outside _ hin, Grid.cell_outside _ hin, if_neg hne]

/-- A write outside the storage changes nothing. -/
theorem Grid.setCell_outside (g : Grid) {x y : Nat} (c : Cell)
    (h : ¬(x < Config.maxSide ∧ y < Config.maxSide)) : g.setCell x y c = g := by
  rw [Grid.setCell, dif_neg h]

/-- A write to one cell leaves every other cell alone, wherever it goes. -/
theorem Grid.cell_setCell_ne (g : Grid) {x y x' y' : Nat} (c : Cell) (h : ¬(x' = x ∧ y' = y)) :
    (g.setCell x y c).cell x' y' = g.cell x' y' := by
  by_cases hin : x < Config.maxSide ∧ y < Config.maxSide
  · rw [Grid.cell_setCell g c hin.1 hin.2, if_neg h]
  · rw [Grid.setCell_outside g c hin]

/-- A cell of the written matrix reads as it did before, or as the written code. -/
theorem Grid.cell_setCell_cases (g : Grid) (x y : Nat) (c : Cell) (x' y' : Nat) :
    (g.setCell x y c).cell x' y' = g.cell x' y' ∨ (g.setCell x y c).cell x' y' = c := by
  by_cases h : x < Config.maxSide ∧ y < Config.maxSide
  · rw [Grid.cell_setCell g c h.1 h.2]
    by_cases h' : x' = x ∧ y' = y
    · exact .inr (if_pos h')
    · exact .inl (if_neg h')
  · exact .inl (by rw [Grid.setCell_outside g c h])

/-- Below NMAX the storage holds the cells it was made of. -/
theorem Grid.cell_ofCells {n : Nat} (f : Nat → Nat → Cell) (hn : n ≤ Config.maxSide) {x y : Nat}
    (hx : x < n) (hy : y < n) : (Grid.ofCells n f).cell x y = f x y := by
  rw [Grid.cell_inside _ (Nat.lt_of_lt_of_le hx hn) (Nat.lt_of_lt_of_le hy hn)]
  simp [Grid.ofCells, hx, hy]

/-- Beyond NMAX there is no cell. -/
theorem Grid.ofCells_fits (n : Nat) (f : Nat → Nat → Cell) : (Grid.ofCells n f).fits n := by
  intro x y h
  by_cases hin : x < Config.maxSide ∧ y < Config.maxSide
  · rw [Grid.cell_inside _ hin.1 hin.2]
    simp [Grid.ofCells, h]
  · exact Grid.cell_outside _ hin

/-- Every cell of a cleared matrix is EMPTY (41_matrix.md R100). -/
theorem Grid.cell_cleared {n : Nat} (hn : n ≤ Config.maxSide) {x y : Nat} (hx : x < n)
    (hy : y < n) : (Grid.cleared n).cell x y = .empty :=
  Grid.cell_ofCells _ hn hx hy

/-- A drawn matrix holds the free value of its draw (70_reset_and_hazards.md R200). -/
theorem Grid.cell_drawn {n : Nat} (k : Nat) (hn : n ≤ Config.maxSide) {x y : Nat} (hx : x < n)
    (hy : y < n) : (Grid.drawn n k).cell x y = Config.freeCell k x y :=
  Grid.cell_ofCells _ hn hx hy

theorem Grid.cleared_fits (n : Nat) : (Grid.cleared n).fits n := Grid.ofCells_fits n _

theorem Grid.drawn_fits (n k : Nat) : (Grid.drawn n k).fits n := Grid.ofCells_fits n _

/-- A write to a cell below NMAX keeps the storage's form. -/
theorem Grid.fits_setCell {g : Grid} {n x y : Nat} (c : Cell) (hg : g.fits n) (hx : x < n)
    (hy : y < n) : (g.setCell x y c).fits n := by
  intro x' y' h
  rw [Grid.cell_setCell_ne]
  · exact hg x' y' h
  · rintro ⟨rfl, rfl⟩
    exact h ⟨hx, hy⟩

/-- A matrix that differs from one of the right form only in cells below NMAX has the right form. -/
theorem Grid.fits_of_cells_eq {g h : Grid} {n : Nat} (hg : g.fits n)
    (hc : ∀ x y, ¬(x < n ∧ y < n) → h.cell x y = g.cell x y) : h.fits n :=
  fun x y hn => (hc x y hn).trans (hg x y hn)

/-- Two matrices with the same cells are the same matrix. -/
theorem Grid.ext_cell {g h : Grid}
    (hc : ∀ x y, x < Config.maxSide → y < Config.maxSide → g.cell x y = h.cell x y) : g = h := by
  apply Vector.ext
  intro y hy
  apply Vector.ext
  intro x hx
  have := hc x y hx hy
  rwa [Grid.cell_inside _ hx hy, Grid.cell_inside _ hx hy] at this

end Sys2Proof.Machine
end

