-- ==== Sys2Proof/Laws/State.lean ====
section
/-!
SUPPORT. One lemma per field per update of the state (Machine/Ops.lean, Machine/Operands.lean), so that
no proof unfolds a record update, and what each update does to the vector registers and to DIM.
-/

namespace Sys2Proof.Machine

variable (s : State)

@[simp] theorem State.setRes_params (w : Word) : (s.setRes w).params = s.params := rfl
@[simp] theorem State.setRes_err (w : Word) : (s.setRes w).err = s.err := rfl
@[simp] theorem State.setRes_ecode (w : Word) : (s.setRes w).ecode = s.ecode := rfl
@[simp] theorem State.setRes_cfg (w : Word) : (s.setRes w).cfg = s.cfg := rfl
@[simp] theorem State.setRes_dim (w : Word) : (s.setRes w).dim = s.dim := rfl
@[simp] theorem State.setRes_opa (w : Word) : (s.setRes w).opa = s.opa := rfl
@[simp] theorem State.setRes_opb (w : Word) : (s.setRes w).opb = s.opb := rfl
@[simp] theorem State.setRes_res (w : Word) : (s.setRes w).res = w := rfl
@[simp] theorem State.setRes_fmt (w : Word) : (s.setRes w).fmt = s.fmt := rfl
@[simp] theorem State.setRes_consumed (w : Word) : (s.setRes w).consumed = s.consumed := rfl
@[simp] theorem State.setRes_total (w : Word) : (s.setRes w).total = s.total := rfl
@[simp] theorem State.setRes_grid (w : Word) : (s.setRes w).grid = s.grid := rfl
@[simp] theorem State.setRes_v0 (w : Word) : (s.setRes w).v0 = s.v0 := rfl
@[simp] theorem State.setRes_v1 (w : Word) : (s.setRes w).v1 = s.v1 := rfl
@[simp] theorem State.setRes_v2 (w : Word) : (s.setRes w).v2 = s.v2 := rfl
@[simp] theorem State.setRes_v3 (w : Word) : (s.setRes w).v3 = s.v3 := rfl
@[simp] theorem State.setRes_draws (w : Word) : (s.setRes w).draws = s.draws := rfl
@[simp] theorem State.setRes_host (w : Word) : (s.setRes w).host = s.host := rfl
@[simp] theorem State.setRes_observed (w : Word) : (s.setRes w).observed = s.observed := rfl
@[simp] theorem State.setRes_side (w : Word) : (s.setRes w).side = s.side := rfl
@[simp] theorem State.setRes_vec (w : Word) (r : VReg) : (s.setRes w).vec r = s.vec r := by cases r <;> rfl

@[simp] theorem State.setFmt_params (f : BitVec 15) : (s.setFmt f).params = s.params := rfl
@[simp] theorem State.setFmt_err (f : BitVec 15) : (s.setFmt f).err = s.err := rfl
@[simp] theorem State.setFmt_ecode (f : BitVec 15) : (s.setFmt f).ecode = s.ecode := rfl
@[simp] theorem State.setFmt_cfg (f : BitVec 15) : (s.setFmt f).cfg = s.cfg := rfl
@[simp] theorem State.setFmt_dim (f : BitVec 15) : (s.setFmt f).dim = s.dim := rfl
@[simp] theorem State.setFmt_opa (f : BitVec 15) : (s.setFmt f).opa = s.opa := rfl
@[simp] theorem State.setFmt_opb (f : BitVec 15) : (s.setFmt f).opb = s.opb := rfl
@[simp] theorem State.setFmt_res (f : BitVec 15) : (s.setFmt f).res = s.res := rfl
@[simp] theorem State.setFmt_fmt (f : BitVec 15) : (s.setFmt f).fmt = f := rfl
@[simp] theorem State.setFmt_consumed (f : BitVec 15) : (s.setFmt f).consumed = s.consumed := rfl
@[simp] theorem State.setFmt_total (f : BitVec 15) : (s.setFmt f).total = s.total := rfl
@[simp] theorem State.setFmt_grid (f : BitVec 15) : (s.setFmt f).grid = s.grid := rfl
@[simp] theorem State.setFmt_v0 (f : BitVec 15) : (s.setFmt f).v0 = s.v0 := rfl
@[simp] theorem State.setFmt_v1 (f : BitVec 15) : (s.setFmt f).v1 = s.v1 := rfl
@[simp] theorem State.setFmt_v2 (f : BitVec 15) : (s.setFmt f).v2 = s.v2 := rfl
@[simp] theorem State.setFmt_v3 (f : BitVec 15) : (s.setFmt f).v3 = s.v3 := rfl
@[simp] theorem State.setFmt_draws (f : BitVec 15) : (s.setFmt f).draws = s.draws := rfl
@[simp] theorem State.setFmt_host (f : BitVec 15) : (s.setFmt f).host = s.host := rfl
@[simp] theorem State.setFmt_observed (f : BitVec 15) : (s.setFmt f).observed = s.observed := rfl
@[simp] theorem State.setFmt_side (f : BitVec 15) : (s.setFmt f).side = s.side := rfl
@[simp] theorem State.setFmt_vec (f : BitVec 15) (r : VReg) : (s.setFmt f).vec r = s.vec r := by cases r <;> rfl

@[simp] theorem State.setCounts_params (c n : Word) : (s.setCounts c n).params = s.params := rfl
@[simp] theorem State.setCounts_err (c n : Word) : (s.setCounts c n).err = s.err := rfl
@[simp] theorem State.setCounts_ecode (c n : Word) : (s.setCounts c n).ecode = s.ecode := rfl
@[simp] theorem State.setCounts_cfg (c n : Word) : (s.setCounts c n).cfg = s.cfg := rfl
@[simp] theorem State.setCounts_dim (c n : Word) : (s.setCounts c n).dim = s.dim := rfl
@[simp] theorem State.setCounts_opa (c n : Word) : (s.setCounts c n).opa = s.opa := rfl
@[simp] theorem State.setCounts_opb (c n : Word) : (s.setCounts c n).opb = s.opb := rfl
@[simp] theorem State.setCounts_res (c n : Word) : (s.setCounts c n).res = s.res := rfl
@[simp] theorem State.setCounts_fmt (c n : Word) : (s.setCounts c n).fmt = s.fmt := rfl
@[simp] theorem State.setCounts_consumed (c n : Word) : (s.setCounts c n).consumed = c := rfl
@[simp] theorem State.setCounts_total (c n : Word) : (s.setCounts c n).total = n := rfl
@[simp] theorem State.setCounts_grid (c n : Word) : (s.setCounts c n).grid = s.grid := rfl
@[simp] theorem State.setCounts_v0 (c n : Word) : (s.setCounts c n).v0 = s.v0 := rfl
@[simp] theorem State.setCounts_v1 (c n : Word) : (s.setCounts c n).v1 = s.v1 := rfl
@[simp] theorem State.setCounts_v2 (c n : Word) : (s.setCounts c n).v2 = s.v2 := rfl
@[simp] theorem State.setCounts_v3 (c n : Word) : (s.setCounts c n).v3 = s.v3 := rfl
@[simp] theorem State.setCounts_draws (c n : Word) : (s.setCounts c n).draws = s.draws := rfl
@[simp] theorem State.setCounts_host (c n : Word) : (s.setCounts c n).host = s.host := rfl
@[simp] theorem State.setCounts_observed (c n : Word) : (s.setCounts c n).observed = s.observed := rfl
@[simp] theorem State.setCounts_side (c n : Word) : (s.setCounts c n).side = s.side := rfl
@[simp] theorem State.setCounts_vec (c n : Word) (r : VReg) : (s.setCounts c n).vec r = s.vec r := by cases r <;> rfl

@[simp] theorem State.setGrid_params (g : Grid) : (s.setGrid g).params = s.params := rfl
@[simp] theorem State.setGrid_err (g : Grid) : (s.setGrid g).err = s.err := rfl
@[simp] theorem State.setGrid_ecode (g : Grid) : (s.setGrid g).ecode = s.ecode := rfl
@[simp] theorem State.setGrid_cfg (g : Grid) : (s.setGrid g).cfg = s.cfg := rfl
@[simp] theorem State.setGrid_dim (g : Grid) : (s.setGrid g).dim = s.dim := rfl
@[simp] theorem State.setGrid_opa (g : Grid) : (s.setGrid g).opa = s.opa := rfl
@[simp] theorem State.setGrid_opb (g : Grid) : (s.setGrid g).opb = s.opb := rfl
@[simp] theorem State.setGrid_res (g : Grid) : (s.setGrid g).res = s.res := rfl
@[simp] theorem State.setGrid_fmt (g : Grid) : (s.setGrid g).fmt = s.fmt := rfl
@[simp] theorem State.setGrid_consumed (g : Grid) : (s.setGrid g).consumed = s.consumed := rfl
@[simp] theorem State.setGrid_total (g : Grid) : (s.setGrid g).total = s.total := rfl
@[simp] theorem State.setGrid_grid (g : Grid) : (s.setGrid g).grid = g := rfl
@[simp] theorem State.setGrid_v0 (g : Grid) : (s.setGrid g).v0 = s.v0 := rfl
@[simp] theorem State.setGrid_v1 (g : Grid) : (s.setGrid g).v1 = s.v1 := rfl
@[simp] theorem State.setGrid_v2 (g : Grid) : (s.setGrid g).v2 = s.v2 := rfl
@[simp] theorem State.setGrid_v3 (g : Grid) : (s.setGrid g).v3 = s.v3 := rfl
@[simp] theorem State.setGrid_draws (g : Grid) : (s.setGrid g).draws = s.draws := rfl
@[simp] theorem State.setGrid_host (g : Grid) : (s.setGrid g).host = s.host := rfl
@[simp] theorem State.setGrid_observed (g : Grid) : (s.setGrid g).observed = s.observed := rfl
@[simp] theorem State.setGrid_side (g : Grid) : (s.setGrid g).side = s.side := rfl
@[simp] theorem State.setGrid_vec (g : Grid) (r : VReg) : (s.setGrid g).vec r = s.vec r := by cases r <;> rfl

@[simp] theorem State.setOpa_params (w : Word) : (s.setOpa w).params = s.params := rfl
@[simp] theorem State.setOpa_err (w : Word) : (s.setOpa w).err = s.err := rfl
@[simp] theorem State.setOpa_ecode (w : Word) : (s.setOpa w).ecode = s.ecode := rfl
@[simp] theorem State.setOpa_cfg (w : Word) : (s.setOpa w).cfg = s.cfg := rfl
@[simp] theorem State.setOpa_dim (w : Word) : (s.setOpa w).dim = s.dim := rfl
@[simp] theorem State.setOpa_opa (w : Word) : (s.setOpa w).opa = w := rfl
@[simp] theorem State.setOpa_opb (w : Word) : (s.setOpa w).opb = s.opb := rfl
@[simp] theorem State.setOpa_res (w : Word) : (s.setOpa w).res = s.res := rfl
@[simp] theorem State.setOpa_fmt (w : Word) : (s.setOpa w).fmt = s.fmt := rfl
@[simp] theorem State.setOpa_consumed (w : Word) : (s.setOpa w).consumed = s.consumed := rfl
@[simp] theorem State.setOpa_total (w : Word) : (s.setOpa w).total = s.total := rfl
@[simp] theorem State.setOpa_grid (w : Word) : (s.setOpa w).grid = s.grid := rfl
@[simp] theorem State.setOpa_v0 (w : Word) : (s.setOpa w).v0 = s.v0 := rfl
@[simp] theorem State.setOpa_v1 (w : Word) : (s.setOpa w).v1 = s.v1 := rfl
@[simp] theorem State.setOpa_v2 (w : Word) : (s.setOpa w).v2 = s.v2 := rfl
@[simp] theorem State.setOpa_v3 (w : Word) : (s.setOpa w).v3 = s.v3 := rfl
@[simp] theorem State.setOpa_draws (w : Word) : (s.setOpa w).draws = s.draws := rfl
@[simp] theorem State.setOpa_host (w : Word) : (s.setOpa w).host = s.host := rfl
@[simp] theorem State.setOpa_observed (w : Word) : (s.setOpa w).observed = s.observed := rfl
@[simp] theorem State.setOpa_side (w : Word) : (s.setOpa w).side = s.side := rfl
@[simp] theorem State.setOpa_vec (w : Word) (r : VReg) : (s.setOpa w).vec r = s.vec r := by cases r <;> rfl

@[simp] theorem State.setOpb_params (w : Word) : (s.setOpb w).params = s.params := rfl
@[simp] theorem State.setOpb_err (w : Word) : (s.setOpb w).err = s.err := rfl
@[simp] theorem State.setOpb_ecode (w : Word) : (s.setOpb w).ecode = s.ecode := rfl
@[simp] theorem State.setOpb_cfg (w : Word) : (s.setOpb w).cfg = s.cfg := rfl
@[simp] theorem State.setOpb_dim (w : Word) : (s.setOpb w).dim = s.dim := rfl
@[simp] theorem State.setOpb_opa (w : Word) : (s.setOpb w).opa = s.opa := rfl
@[simp] theorem State.setOpb_opb (w : Word) : (s.setOpb w).opb = w := rfl
@[simp] theorem State.setOpb_res (w : Word) : (s.setOpb w).res = s.res := rfl
@[simp] theorem State.setOpb_fmt (w : Word) : (s.setOpb w).fmt = s.fmt := rfl
@[simp] theorem State.setOpb_consumed (w : Word) : (s.setOpb w).consumed = s.consumed := rfl
@[simp] theorem State.setOpb_total (w : Word) : (s.setOpb w).total = s.total := rfl
@[simp] theorem State.setOpb_grid (w : Word) : (s.setOpb w).grid = s.grid := rfl
@[simp] theorem State.setOpb_v0 (w : Word) : (s.setOpb w).v0 = s.v0 := rfl
@[simp] theorem State.setOpb_v1 (w : Word) : (s.setOpb w).v1 = s.v1 := rfl
@[simp] theorem State.setOpb_v2 (w : Word) : (s.setOpb w).v2 = s.v2 := rfl
@[simp] theorem State.setOpb_v3 (w : Word) : (s.setOpb w).v3 = s.v3 := rfl
@[simp] theorem State.setOpb_draws (w : Word) : (s.setOpb w).draws = s.draws := rfl
@[simp] theorem State.setOpb_host (w : Word) : (s.setOpb w).host = s.host := rfl
@[simp] theorem State.setOpb_observed (w : Word) : (s.setOpb w).observed = s.observed := rfl
@[simp] theorem State.setOpb_side (w : Word) : (s.setOpb w).side = s.side := rfl
@[simp] theorem State.setOpb_vec (w : Word) (r : VReg) : (s.setOpb w).vec r = s.vec r := by cases r <;> rfl

@[simp] theorem State.setCfg_params (w : Word) : (s.setCfg w).params = s.params := rfl
@[simp] theorem State.setCfg_err (w : Word) : (s.setCfg w).err = s.err := rfl
@[simp] theorem State.setCfg_ecode (w : Word) : (s.setCfg w).ecode = s.ecode := rfl
@[simp] theorem State.setCfg_cfg (w : Word) : (s.setCfg w).cfg = w &&& 0x00000F37#32 := rfl
@[simp] theorem State.setCfg_dim (w : Word) : (s.setCfg w).dim = s.dim := rfl
@[simp] theorem State.setCfg_opa (w : Word) : (s.setCfg w).opa = s.opa := rfl
@[simp] theorem State.setCfg_opb (w : Word) : (s.setCfg w).opb = s.opb := rfl
@[simp] theorem State.setCfg_res (w : Word) : (s.setCfg w).res = s.res := rfl
@[simp] theorem State.setCfg_fmt (w : Word) : (s.setCfg w).fmt = s.fmt := rfl
@[simp] theorem State.setCfg_consumed (w : Word) : (s.setCfg w).consumed = s.consumed := rfl
@[simp] theorem State.setCfg_total (w : Word) : (s.setCfg w).total = s.total := rfl
@[simp] theorem State.setCfg_grid (w : Word) : (s.setCfg w).grid = s.grid := rfl
@[simp] theorem State.setCfg_v0 (w : Word) : (s.setCfg w).v0 = s.v0 := rfl
@[simp] theorem State.setCfg_v1 (w : Word) : (s.setCfg w).v1 = s.v1 := rfl
@[simp] theorem State.setCfg_v2 (w : Word) : (s.setCfg w).v2 = s.v2 := rfl
@[simp] theorem State.setCfg_v3 (w : Word) : (s.setCfg w).v3 = s.v3 := rfl
@[simp] theorem State.setCfg_draws (w : Word) : (s.setCfg w).draws = s.draws := rfl
@[simp] theorem State.setCfg_host (w : Word) : (s.setCfg w).host = s.host := rfl
@[simp] theorem State.setCfg_observed (w : Word) : (s.setCfg w).observed = s.observed := rfl
@[simp] theorem State.setCfg_side (w : Word) : (s.setCfg w).side = s.side := rfl
@[simp] theorem State.setCfg_vec (w : Word) (r : VReg) : (s.setCfg w).vec r = s.vec r := by cases r <;> rfl

@[simp] theorem State.setHost_params (es : List HostEvent) : (s.setHost es).params = s.params := rfl
@[simp] theorem State.setHost_err (es : List HostEvent) : (s.setHost es).err = s.err := rfl
@[simp] theorem State.setHost_ecode (es : List HostEvent) : (s.setHost es).ecode = s.ecode := rfl
@[simp] theorem State.setHost_cfg (es : List HostEvent) : (s.setHost es).cfg = s.cfg := rfl
@[simp] theorem State.setHost_dim (es : List HostEvent) : (s.setHost es).dim = s.dim := rfl
@[simp] theorem State.setHost_opa (es : List HostEvent) : (s.setHost es).opa = s.opa := rfl
@[simp] theorem State.setHost_opb (es : List HostEvent) : (s.setHost es).opb = s.opb := rfl
@[simp] theorem State.setHost_res (es : List HostEvent) : (s.setHost es).res = s.res := rfl
@[simp] theorem State.setHost_fmt (es : List HostEvent) : (s.setHost es).fmt = s.fmt := rfl
@[simp] theorem State.setHost_consumed (es : List HostEvent) : (s.setHost es).consumed = s.consumed := rfl
@[simp] theorem State.setHost_total (es : List HostEvent) : (s.setHost es).total = s.total := rfl
@[simp] theorem State.setHost_grid (es : List HostEvent) : (s.setHost es).grid = s.grid := rfl
@[simp] theorem State.setHost_v0 (es : List HostEvent) : (s.setHost es).v0 = s.v0 := rfl
@[simp] theorem State.setHost_v1 (es : List HostEvent) : (s.setHost es).v1 = s.v1 := rfl
@[simp] theorem State.setHost_v2 (es : List HostEvent) : (s.setHost es).v2 = s.v2 := rfl
@[simp] theorem State.setHost_v3 (es : List HostEvent) : (s.setHost es).v3 = s.v3 := rfl
@[simp] theorem State.setHost_draws (es : List HostEvent) : (s.setHost es).draws = s.draws := rfl
@[simp] theorem State.setHost_host (es : List HostEvent) : (s.setHost es).host = es := rfl
@[simp] theorem State.setHost_observed (es : List HostEvent) : (s.setHost es).observed = s.observed := rfl
@[simp] theorem State.setHost_side (es : List HostEvent) : (s.setHost es).side = s.side := rfl
@[simp] theorem State.setHost_vec (es : List HostEvent) (r : VReg) : (s.setHost es).vec r = s.vec r := by cases r <;> rfl

@[simp] theorem State.observe_params (w : Word) : (s.observe w).params = s.params := rfl
@[simp] theorem State.observe_err (w : Word) : (s.observe w).err = s.err := rfl
@[simp] theorem State.observe_ecode (w : Word) : (s.observe w).ecode = s.ecode := rfl
@[simp] theorem State.observe_cfg (w : Word) : (s.observe w).cfg = s.cfg := rfl
@[simp] theorem State.observe_dim (w : Word) : (s.observe w).dim = s.dim := rfl
@[simp] theorem State.observe_opa (w : Word) : (s.observe w).opa = s.opa := rfl
@[simp] theorem State.observe_opb (w : Word) : (s.observe w).opb = s.opb := rfl
@[simp] theorem State.observe_res (w : Word) : (s.observe w).res = s.res := rfl
@[simp] theorem State.observe_fmt (w : Word) : (s.observe w).fmt = s.fmt := rfl
@[simp] theorem State.observe_consumed (w : Word) : (s.observe w).consumed = s.consumed := rfl
@[simp] theorem State.observe_total (w : Word) : (s.observe w).total = s.total := rfl
@[simp] theorem State.observe_grid (w : Word) : (s.observe w).grid = s.grid := rfl
@[simp] theorem State.observe_v0 (w : Word) : (s.observe w).v0 = s.v0 := rfl
@[simp] theorem State.observe_v1 (w : Word) : (s.observe w).v1 = s.v1 := rfl
@[simp] theorem State.observe_v2 (w : Word) : (s.observe w).v2 = s.v2 := rfl
@[simp] theorem State.observe_v3 (w : Word) : (s.observe w).v3 = s.v3 := rfl
@[simp] theorem State.observe_draws (w : Word) : (s.observe w).draws = s.draws := rfl
@[simp] theorem State.observe_host (w : Word) : (s.observe w).host = s.host := rfl
@[simp] theorem State.observe_observed (w : Word) : (s.observe w).observed = s.observed ++ [w] := rfl
@[simp] theorem State.observe_side (w : Word) : (s.observe w).side = s.side := rfl
@[simp] theorem State.observe_vec (w : Word) (r : VReg) : (s.observe w).vec r = s.vec r := by cases r <;> rfl

@[simp] theorem State.raise_params (e : ErrorKind) : (s.raise e).params = s.params := rfl
@[simp] theorem State.raise_err (e : ErrorKind) : (s.raise e).err = true := rfl
@[simp] theorem State.raise_ecode (e : ErrorKind) : (s.raise e).ecode = e.code := rfl
@[simp] theorem State.raise_cfg (e : ErrorKind) : (s.raise e).cfg = s.cfg := rfl
@[simp] theorem State.raise_dim (e : ErrorKind) : (s.raise e).dim = s.dim := rfl
@[simp] theorem State.raise_opa (e : ErrorKind) : (s.raise e).opa = s.opa := rfl
@[simp] theorem State.raise_opb (e : ErrorKind) : (s.raise e).opb = s.opb := rfl
@[simp] theorem State.raise_res (e : ErrorKind) : (s.raise e).res = s.res := rfl
@[simp] theorem State.raise_fmt (e : ErrorKind) : (s.raise e).fmt = s.fmt := rfl
@[simp] theorem State.raise_consumed (e : ErrorKind) : (s.raise e).consumed = s.consumed := rfl
@[simp] theorem State.raise_total (e : ErrorKind) : (s.raise e).total = s.total := rfl
@[simp] theorem State.raise_grid (e : ErrorKind) : (s.raise e).grid = s.grid := rfl
@[simp] theorem State.raise_v0 (e : ErrorKind) : (s.raise e).v0 = s.v0 := rfl
@[simp] theorem State.raise_v1 (e : ErrorKind) : (s.raise e).v1 = s.v1 := rfl
@[simp] theorem State.raise_v2 (e : ErrorKind) : (s.raise e).v2 = s.v2 := rfl
@[simp] theorem State.raise_v3 (e : ErrorKind) : (s.raise e).v3 = s.v3 := rfl
@[simp] theorem State.raise_draws (e : ErrorKind) : (s.raise e).draws = s.draws := rfl
@[simp] theorem State.raise_host (e : ErrorKind) : (s.raise e).host = s.host := rfl
@[simp] theorem State.raise_observed (e : ErrorKind) : (s.raise e).observed = s.observed := rfl
@[simp] theorem State.raise_side (e : ErrorKind) : (s.raise e).side = s.side := rfl
@[simp] theorem State.raise_vec (e : ErrorKind) (r : VReg) : (s.raise e).vec r = s.vec r := by cases r <;> rfl

@[simp] theorem State.clearError_params : (s.clearError).params = s.params := rfl
@[simp] theorem State.clearError_err : (s.clearError).err = false := rfl
@[simp] theorem State.clearError_ecode : (s.clearError).ecode = 0#4 := rfl
@[simp] theorem State.clearError_cfg : (s.clearError).cfg = s.cfg := rfl
@[simp] theorem State.clearError_dim : (s.clearError).dim = s.dim := rfl
@[simp] theorem State.clearError_opa : (s.clearError).opa = s.opa := rfl
@[simp] theorem State.clearError_opb : (s.clearError).opb = s.opb := rfl
@[simp] theorem State.clearError_res : (s.clearError).res = s.res := rfl
@[simp] theorem State.clearError_fmt : (s.clearError).fmt = s.fmt := rfl
@[simp] theorem State.clearError_consumed : (s.clearError).consumed = s.consumed := rfl
@[simp] theorem State.clearError_total : (s.clearError).total = s.total := rfl
@[simp] theorem State.clearError_grid : (s.clearError).grid = s.grid := rfl
@[simp] theorem State.clearError_v0 : (s.clearError).v0 = s.v0 := rfl
@[simp] theorem State.clearError_v1 : (s.clearError).v1 = s.v1 := rfl
@[simp] theorem State.clearError_v2 : (s.clearError).v2 = s.v2 := rfl
@[simp] theorem State.clearError_v3 : (s.clearError).v3 = s.v3 := rfl
@[simp] theorem State.clearError_draws : (s.clearError).draws = s.draws := rfl
@[simp] theorem State.clearError_host : (s.clearError).host = s.host := rfl
@[simp] theorem State.clearError_observed : (s.clearError).observed = s.observed := rfl
@[simp] theorem State.clearError_side : (s.clearError).side = s.side := rfl
@[simp] theorem State.clearError_vec (r : VReg) : (s.clearError).vec r = s.vec r := by cases r <;> rfl

@[simp] theorem State.clearMatrix_params : s.clearMatrix.params = s.params := rfl
@[simp] theorem State.clearMatrix_err : s.clearMatrix.err = false := rfl
@[simp] theorem State.clearMatrix_ecode : s.clearMatrix.ecode = 0#4 := rfl
@[simp] theorem State.clearMatrix_cfg : s.clearMatrix.cfg = s.cfg := rfl
@[simp] theorem State.clearMatrix_dim : s.clearMatrix.dim = s.dim := rfl
@[simp] theorem State.clearMatrix_opa : s.clearMatrix.opa = s.opa := rfl
@[simp] theorem State.clearMatrix_opb : s.clearMatrix.opb = s.opb := rfl
@[simp] theorem State.clearMatrix_res : s.clearMatrix.res = s.res := rfl
@[simp] theorem State.clearMatrix_fmt : s.clearMatrix.fmt = s.fmt := rfl
@[simp] theorem State.clearMatrix_consumed : s.clearMatrix.consumed = s.consumed := rfl
@[simp] theorem State.clearMatrix_total : s.clearMatrix.total = s.total := rfl
@[simp] theorem State.clearMatrix_grid : s.clearMatrix.grid = Grid.cleared s.params.nmax := rfl
@[simp] theorem State.clearMatrix_v0 : s.clearMatrix.v0 = s.v0 := rfl
@[simp] theorem State.clearMatrix_v1 : s.clearMatrix.v1 = s.v1 := rfl
@[simp] theorem State.clearMatrix_v2 : s.clearMatrix.v2 = s.v2 := rfl
@[simp] theorem State.clearMatrix_v3 : s.clearMatrix.v3 = s.v3 := rfl
@[simp] theorem State.clearMatrix_draws : s.clearMatrix.draws = s.draws := rfl
@[simp] theorem State.clearMatrix_host : s.clearMatrix.host = s.host := rfl
@[simp] theorem State.clearMatrix_observed : s.clearMatrix.observed = s.observed := rfl
@[simp] theorem State.clearMatrix_side : s.clearMatrix.side = s.side := rfl
@[simp] theorem State.clearMatrix_vec (r : VReg) : s.clearMatrix.vec r = s.vec r := by cases r <;> rfl

@[simp] theorem State.setVec_params (r : VReg) (l : List Bool) : (s.setVec r l).params = s.params := by cases r <;> rfl
@[simp] theorem State.setVec_err (r : VReg) (l : List Bool) : (s.setVec r l).err = s.err := by cases r <;> rfl
@[simp] theorem State.setVec_ecode (r : VReg) (l : List Bool) : (s.setVec r l).ecode = s.ecode := by cases r <;> rfl
@[simp] theorem State.setVec_cfg (r : VReg) (l : List Bool) : (s.setVec r l).cfg = s.cfg := by cases r <;> rfl
@[simp] theorem State.setVec_dim (r : VReg) (l : List Bool) : (s.setVec r l).dim = s.dim := by cases r <;> rfl
@[simp] theorem State.setVec_opa (r : VReg) (l : List Bool) : (s.setVec r l).opa = s.opa := by cases r <;> rfl
@[simp] theorem State.setVec_opb (r : VReg) (l : List Bool) : (s.setVec r l).opb = s.opb := by cases r <;> rfl
@[simp] theorem State.setVec_res (r : VReg) (l : List Bool) : (s.setVec r l).res = s.res := by cases r <;> rfl
@[simp] theorem State.setVec_fmt (r : VReg) (l : List Bool) : (s.setVec r l).fmt = s.fmt := by cases r <;> rfl
@[simp] theorem State.setVec_consumed (r : VReg) (l : List Bool) : (s.setVec r l).consumed = s.consumed := by cases r <;> rfl
@[simp] theorem State.setVec_total (r : VReg) (l : List Bool) : (s.setVec r l).total = s.total := by cases r <;> rfl
@[simp] theorem State.setVec_grid (r : VReg) (l : List Bool) : (s.setVec r l).grid = s.grid := by cases r <;> rfl
@[simp] theorem State.setVec_draws (r : VReg) (l : List Bool) : (s.setVec r l).draws = s.draws := by cases r <;> rfl
@[simp] theorem State.setVec_host (r : VReg) (l : List Bool) : (s.setVec r l).host = s.host := by cases r <;> rfl
@[simp] theorem State.setVec_observed (r : VReg) (l : List Bool) : (s.setVec r l).observed = s.observed := by cases r <;> rfl
@[simp] theorem State.setVec_side (r : VReg) (l : List Bool) : (s.setVec r l).side = s.side := by cases r <;> rfl

/-- A vector register reads as what was written to it, and the others as before. -/
theorem State.setVec_vec (r r' : VReg) (l : List Bool) :
    (s.setVec r l).vec r' = if r' = r then l else s.vec r' := by
  cases r <;> cases r' <;> rfl

@[simp] theorem State.setVec_vec_same (r : VReg) (l : List Bool) : (s.setVec r l).vec r = l := by
  cases r <;> rfl

/-- Writing a vector register changes no other field. -/
theorem State.setVec_eq (r : VReg) (l : List Bool) :
    s.setVec r l = { s with
      v0 := (s.setVec r l).v0, v1 := (s.setVec r l).v1
      v2 := (s.setVec r l).v2, v3 := (s.setVec r l).v3 } := by
  cases r <;> rfl

/-- A vector register's other side: two states with the same four vectors read alike. -/
theorem State.ext_vec {s t : State} (h : ∀ r, s.vec r = t.vec r) :
    s.v0 = t.v0 ∧ s.v1 = t.v1 ∧ s.v2 = t.v2 ∧ s.v3 = t.v3 :=
  ⟨h .v0, h .v1, h .v2, h .v3⟩

/-- A host write to DIM, legal or not (10_state.md R27, R28). -/
theorem State.setDim_cases (w : Word) :
    (1 ≤ (w.extractLsb' 0 5).toNat ∧ (w.extractLsb' 0 5).toNat ≤ s.params.nmax ∧
      s.setDim w = { s with
        dim := w.extractLsb' 0 5
        grid := Grid.drawn s.params.nmax s.draws
        draws := s.draws + 1 }) ∨
    (¬(1 ≤ (w.extractLsb' 0 5).toNat ∧ (w.extractLsb' 0 5).toNat ≤ s.params.nmax) ∧ s.setDim w = s) := by
  unfold State.setDim
  by_cases h : 1 ≤ (w.extractLsb' 0 5).toNat ∧ (w.extractLsb' 0 5).toNat ≤ s.params.nmax
  · exact .inl ⟨h.1, h.2, if_pos h⟩
  · exact .inr ⟨h, if_neg h⟩

/-- Raising an error and then returning from it leaves ERR and ECODE at 0. -/
theorem State.clearError_raise (e : ErrorKind) : (s.raise e).clearError = s.clearError := rfl

end Sys2Proof.Machine
end

