-- ==== Sys2Proof/Laws/Ops.lean ====
section
/-!
SUPPORT. One lemma per shared operation: how a command ends, the bit vectors, the mask identifiers and
the register offsets.
-/

namespace Sys2Proof.Machine

@[simp] theorem Ending.andThen_done {α : Type} (a : α) (f : α → Ending α) :
    (Ending.done a).andThen f = f a := rfl

@[simp] theorem Ending.andThen_failed {α : Type} (e : ErrorKind) (a : α) (f : α → Ending α) :
    (Ending.failed e a).andThen f = .failed e a := rfl

@[simp] theorem Ending.map_done {α β : Type} (f : α → β) (a : α) :
    (Ending.done a).map f = .done (f a) := rfl

@[simp] theorem Ending.map_failed {α β : Type} (f : α → β) (e : ErrorKind) (a : α) :
    (Ending.failed e a).map f = .failed e (f a) := rfl

@[simp] theorem Ending.settle_done (s : State) : (Ending.done s).settle = s := rfl

@[simp] theorem Ending.settle_failed (e : ErrorKind) (s : State) :
    (Ending.failed e s).settle = s.raise e := rfl

/-- A stage after another is done exactly when both are. -/
theorem Ending.andThen_eq_done {α : Type} {r : Ending α} {f : α → Ending α} {b : α} :
    r.andThen f = .done b ↔ ∃ a, r = .done a ∧ f a = .done b := by
  cases r <;> simp

/-- Every command completes: both endings are a next state (60_exceptions.md R180). -/
theorem complete_eq (r : Ending State) : complete r = .next r.settle := rfl

/-- The code of an error is one of 1 to 11 (60_exceptions.md R181). -/
theorem ErrorKind.code_range (e : ErrorKind) : 1 ≤ e.code.toNat ∧ e.code.toNat ≤ 11 := by
  cases e <;> decide

/-- Two errors never share a code. -/
theorem ErrorKind.code_injective {e f : ErrorKind} (h : e.code = f.code) : e = f := by
  revert h
  cases e <;> cases f <;> decide

@[simp] theorem lowBits_length (n w : Nat) : (lowBits n w).length = n := by simp [lowBits]

/-- Appending n bits makes a vector n longer (42_bitvector.md R111). -/
@[simp] theorem appendBits_length (bv : List Bool) (w n : Nat) :
    (appendBits bv w n).length = bv.length + n := by
  simp [appendBits]

/-- The bits a vector had stay where they were. -/
theorem appendBits_old (bv : List Bool) (w n : Nat) {p : Nat} (h : p < bv.length) :
    (appendBits bv w n)[p]? = bv[p]? := by
  rw [appendBits, List.getElem?_append_left h]

/-- The appended bits, the most significant of the n first (00_scope.md R15). -/
theorem appendBits_new (bv : List Bool) (w n : Nat) {k : Nat} (h : k < n) :
    (appendBits bv w n)[bv.length + k]? = some (w.testBit (n - 1 - k)) := by
  rw [appendBits, List.getElem?_append_right (by omega)]
  simp [lowBits, h]

/-- The exclusive-or of two vectors of one length has that length (42_bitvector.md R112). -/
theorem xorBits_length {a b : List Bool} (h : a.length = b.length) :
    (xorBits a b).length = a.length := by
  simp [xorBits, h]

/-- The exclusive-or, position by position (42_bitvector.md R112). -/
theorem xorBits_get {a b : List Bool} {p : Nat} {x y : Bool} (ha : a[p]? = some x)
    (hb : b[p]? = some y) : (xorBits a b)[p]? = some (x ^^ y) := by
  simp [xorBits, List.getElem?_zipWith, ha, hb]

/-- The legal mask identifiers are 0 to 3 (00_scope.md R13). -/
theorem maskIdentifier_eq_some {maskv : Int} {m : Fin 4} :
    maskIdentifier maskv = some m ↔ maskv = m.val := by
  unfold maskIdentifier
  constructor
  · intro h
    split at h
    · cases h; simpa
    · split at h
      · cases h; simpa
      · split at h
        · cases h; simpa
        · split at h
          · cases h; simpa
          · cases h
  · rintro rfl
    revert m
    decide

/-- A register's offset leads back to it (10_state.md R21). -/
@[simp] theorem HostReg.at_offset (r : HostReg) : HostReg.at r.offset = some r := by
  cases r <;> decide

/-- The offsets that no register has (10_state.md R43). -/
theorem HostReg.at_eq_none_iff :
    ∀ o : BitVec 6, o.toNat % 4 = 0 → (HostReg.at o = none ↔ 0x24 < o.toNat) := by
  decide

/-- An access to a register by its own offset, 32 bits wide, reaches it (20_memory.md R52). -/
@[simp] theorem busTarget_offset (r : HostReg) : busTarget r.offset 32 = .register r := by
  cases r <;> decide

/-- An access is served exactly when it is aligned, 32 bits wide, and at a register's offset
(20_memory.md R52). -/
theorem busTarget_register_iff (offset : BitVec 6) (bits : Nat) :
    (∃ r, busTarget offset bits = .register r) ↔
      offset.toNat % 4 = 0 ∧ bits = 32 ∧ offset.toNat ≤ 0x24 := by
  unfold busTarget
  by_cases h4 : offset.toNat % 4 = 0
  · by_cases hb : bits = 32
    · have hn := HostReg.at_eq_none_iff offset h4
      cases hat : HostReg.at offset with
      | none => have := hn.1 hat; simp [h4, hb]; omega
      | some r =>
        have : ¬ 0x24 < offset.toNat := fun hlt => by rw [hn.2 hlt] at hat; cases hat
        simp [h4, hb]; omega
    · simp [h4, hb]
  · simp [h4]

end Sys2Proof.Machine
end

