-- ==== Sys2Proof/Laws/Bch.lean ====
section
/-!
SUPPORT. The laws of `msbpos` (44_bch.md R130).
-/

namespace Sys2Proof.Machine

@[simp] theorem msbpos_zero : msbpos 0 = 0 := rfl

/-- `2^(msbpos v - 1) <= v < 2^(msbpos v)` for v other than 0 (44_bch.md R130). -/
theorem msbpos_bounds {v : Nat} (h : v ≠ 0) : 2 ^ (msbpos v - 1) ≤ v ∧ v < 2 ^ msbpos v := by
  rw [msbpos, if_neg h]
  exact ⟨by simpa using Nat.log2_self_le h, Nat.lt_log2_self⟩

/-- A number is below 2^n exactly when its highest bit's position is at most n. -/
theorem msbpos_le_iff (v n : Nat) : msbpos v ≤ n ↔ v < 2 ^ n := by
  by_cases h : v = 0
  · simp [h]
  · rw [msbpos, if_neg h, Nat.succ_le_iff, Nat.log2_lt h]

/-- The highest bit is set. -/
theorem testBit_msbpos {v : Nat} (h : v ≠ 0) : v.testBit (msbpos v - 1) = true := by
  obtain ⟨h1, h2⟩ := msbpos_bounds h
  have hp : msbpos v = (msbpos v - 1) + 1 := by
    have : msbpos v ≠ 0 := by rw [msbpos, if_neg h]; omega
    omega
  rw [Nat.testBit_eq_decide_div_mod_eq, decide_eq_true_eq]
  rw [hp, pow_succ] at h2
  have : v / 2 ^ (msbpos v - 1) = 1 := by
    apply Nat.div_eq_of_lt_le <;> omega
  omega

/-- No bit at or above msbpos is set. -/
theorem testBit_of_msbpos_le {v i : Nat} (h : msbpos v ≤ i) : v.testBit i = false :=
  Nat.testBit_lt_two_pow ((msbpos_le_iff v i).1 h)

end Sys2Proof.Machine
end

