-- ==== Sys2Proof/Laws/Exec.lean ====
section
/-!
SUPPORT. What every command does to the outcome: it completes, and the state it leaves is its body's
(30_encoding.md R63, 60_exceptions.md R180).
-/

namespace Sys2Proof.Machine

/-- The body of each command: how it ends, before an error it raises is recorded. -/
def bodyOf (i : Instr) (s : State) : Ending State :=
  match i with
  | .clear => .done s.clearMatrix
  | .embpat => embpatStage s
  | .embfmt => embfmtStage s
  | .embdata vs1 => embdataStage vs1 s
  | .encode vs1 => encodeBodyWith Config.maskFn vs1 s
  | .msbpos => .done (s.setRes (BitVec.ofNat 32 (msbpos s.opa.toNat)))
  | .bchrem => bchremBody s
  | .fmtbits => fmtbitsBody s
  | .get x y => getBody x y s
  | .set x y b => setBody x y b s
  | .vclr vd => .done (s.setVec vd [])
  | .vapp vd nb => vappBody vd nb s
  | .vxor vd vs1 vs2 => vxorBody vd vs1 vs2 s
  | .vget vs1 => vgetBody vs1 s
  | .vlen vs1 => .done (s.setRes (BitVec.ofNat 32 (s.vec vs1).length))

/-- Every command ends in a next state: its body's, with the error recorded if it failed. -/
theorem exec_eq_body (i : Instr) (s : State) : exec i s = .next (bodyOf i s).settle := by
  cases i <;> rfl

/-- A body that is done leaves the state it made. -/
theorem exec_of_done {i : Instr} {s t : State} (h : bodyOf i s = .done t) : exec i s = .next t := by
  rw [exec_eq_body, h, Ending.settle_done]

/-- A body that fails raises its error over the writes it made. -/
theorem exec_of_failed {i : Instr} {s t : State} {e : ErrorKind} (h : bodyOf i s = .failed e t) :
    exec i s = .next (t.raise e) := by
  rw [exec_eq_body, h, Ending.settle_failed]

/-- The next state of a command, from its body. -/
theorem exec_eq_next_iff {i : Instr} {s t : State} :
    exec i s = .next t ↔ (bodyOf i s).settle = t := by
  rw [exec_eq_body]
  constructor
  · intro h; cases h; rfl
  · rintro rfl; rfl

/-- One step serves the host's next access (20_memory.md R53). -/
theorem step_cons {s : State} {e : HostEvent} {rest : List HostEvent} (h : s.host = e :: rest) :
    step s = serve e (s.setHost rest) := by
  rw [step, h]

/-- A step that serves a CMD write issues its word (10_state.md R22). -/
theorem step_cmdWrite {s : State} {w : Word} {rest : List HostEvent}
    (h : s.host = cmdWrite w :: rest) : step s = issue w (s.setHost rest) := by
  rw [step_cons h, cmdWrite, serve, busTarget_offset]
  rfl

/-- A step that serves a whole-word write to a register. -/
theorem step_write {s : State} {r : HostReg} {w : Word} {rest : List HostEvent}
    (h : s.host = .write r.offset 32 w :: rest) : step s = hostWrite r w (s.setHost rest) := by
  rw [step_cons h, serve, busTarget_offset]

/-- A step that serves a whole-word read of a register. -/
theorem step_read {s : State} {r : HostReg} {rest : List HostEvent}
    (h : s.host = .read r.offset 32 :: rest) : step s = hostRead r (s.setHost rest) := by
  rw [step_cons h, serve, busTarget_offset]

/-- What issuing a command word can do (30_encoding.md R63): it is ignored, it raises IllegalCommand,
or it runs the decoded command. -/
theorem issue_cases (w : Word) (s : State) :
    (s.err = true ∧ issue w s = .next s ∧
      ∀ i, decode w = .command i → acceptedInError i = false) ∨
    (s.err = false ∧ (∃ why, decode w = .illegal why) ∧
      issue w s = .next (s.raise .illegalCommand)) ∨
    ∃ i, decode w = .command i ∧ (s.err = false ∨ acceptedInError i = true) ∧
      issue w s = exec i s := by
  unfold issue
  cases hd : decode w with
  | command i =>
    cases he : s.err <;> cases ha : acceptedInError i <;> simp [ha]
  | illegal why => cases he : s.err <;> simp

/-- What a host write to a register can do (20_memory.md R54). -/
theorem hostWrite_cases (r : HostReg) (w : Word) (s : State) :
    (r = .cmd ∧ hostWrite r w s = issue w s) ∨
    (r = .cfg ∧ hostWrite r w s = .next (s.setCfg w)) ∨
    (r = .dim ∧ hostWrite r w s = .next (s.setDim w)) ∨
    (r = .opa ∧ hostWrite r w s = .next (s.setOpa w)) ∨
    (r = .opb ∧ hostWrite r w s = .next (s.setOpb w)) ∨
    hostWrite r w s = .next s := by
  cases r <;> simp [hostWrite]

/-- Everything a step that answers a next state can have done: wait, reset, serve a read, or serve a
write to a register. -/
theorem step_next_cases {s t : State} (h : step s = .next t) :
    (s.host = [] ∧ t = s) ∨
    ∃ e rest, s.host = e :: rest ∧
      ((e = .reset ∧ t = hostReset (s.setHost rest)) ∨
        (∃ offset bits r, e = .read offset bits ∧ busTarget offset bits = .register r ∧
          t = (s.setHost rest).observe (readWord r s)) ∨
        ∃ offset bits data r, e = .write offset bits data ∧ busTarget offset bits = .register r ∧
          hostWrite r data (s.setHost rest) = .next t) := by
  cases hh : s.host with
  | nil =>
    left
    rw [step, hh] at h
    cases h
    exact ⟨rfl, rfl⟩
  | cons e rest =>
    right
    rw [step_cons hh] at h
    refine ⟨e, rest, rfl, ?_⟩
    cases e with
    | reset => left; cases h; exact ⟨rfl, rfl⟩
    | read offset bits =>
      right; left
      cases hb : busTarget offset bits with
      | refused why => rw [serve, hb] at h; cases h
      | register r =>
        rw [serve, hb] at h
        simp only [hostRead] at h
        split at h
        · cases h
        · cases h
          refine ⟨offset, bits, r, rfl, hb, ?_⟩
          cases r <;> rfl
    | write offset bits data =>
      right; right
      cases hb : busTarget offset bits with
      | refused why => rw [serve, hb] at h; cases h
      | register r => rw [serve, hb] at h; exact ⟨offset, bits, data, r, rfl, hb, h⟩

end Sys2Proof.Machine
end

