-- ==== Sys2Proof/Laws/Format.lean ====
section
/-!
SUPPORT. How the bodies of FMTBITS and EMBFMT end, and what the 15 format writes do (45_format.md R140,
R143, R144).
-/

namespace Sys2Proof.Machine

/-- SYMTAB's entry is version 1's one, or a row of the parameter (45_format.md R139). -/
theorem symtab_eq_some {p : Params} {version : BitVec 3} {ecl : BitVec 2} {sn : Nat}
    (h : symtab p version ecl = some sn) :
    (version = 1#3 ∧ ecl = p.m1Ecl ∧ sn = 0) ∨
      ∃ r ∈ p.symtab, r.version = version ∧ r.ecl = ecl ∧ sn = r.symbol.toNat := by
  rw [symtab, Option.map_eq_some_iff] at h
  obtain ⟨r, hr, rfl⟩ := h
  have hk := List.find?_some hr
  simp only [Bool.and_eq_true, beq_iff_eq] at hk
  rcases List.mem_cons.1 (List.mem_of_find?_eq_some hr) with rfl | hm
  · exact .inl ⟨hk.1.symm, hk.2.symm, rfl⟩
  · exact .inr ⟨r, hm, hk.1, hk.2, rfl⟩

/-- FMTBITS's body changes nothing but FMT. -/
theorem fmtbitsBody_cases (s : State) :
    (∃ f, s.formatField = .ok f ∧ fmtbitsBody s = .done (s.setFmt f)) ∨
    ∃ e, s.formatField = .error e ∧ fmtbitsBody s = .failed e s := by
  unfold fmtbitsBody
  cases s.formatField with
  | error e => exact .inr ⟨e, rfl, rfl⟩
  | ok f => exact .inl ⟨f, rfl, rfl⟩

/-- EMBFMT's body changes nothing but the format cells and FMT, and nothing at all when it raises
(45_format.md R145). -/
theorem embfmtStage_cases (s : State) :
    (∃ f, s.formatField = .ok f ∧ 9 ≤ s.side ∧
      embfmtStage s = .done ((s.setGrid (writeFormat f s.grid)).setFmt f)) ∨
    (∃ e, s.formatField = .error e ∧ embfmtStage s = .failed e s) ∨
    ((∃ f, s.formatField = .ok f) ∧ s.side < 9 ∧ embfmtStage s = .failed .outOfBounds s) := by
  unfold embfmtStage
  cases s.formatField with
  | error e => exact .inr (.inl ⟨e, rfl, rfl⟩)
  | ok f =>
    by_cases h : s.side < 9
    · exact .inr (.inr ⟨⟨f, rfl⟩, h, by simp [h]⟩)
    · exact .inl ⟨f, rfl, by omega, by simp [h]⟩

/-- The format coordinates are distinct. -/
theorem fmtPos_injective {i j : Nat} (hi : i < 15) (hj : j < 15) (h : fmtPos i = fmtPos j) : i = j := by
  unfold fmtPos at h
  split at h <;> split at h <;> simp only [Prod.mk.injEq] at h <;> omega

/-- The writes of the first n format bits: each goes to its coordinate, and no other cell changes. -/
theorem writeFormat_prefix (f : BitVec 15) (g : Grid) {n : Nat} (hn : n ≤ 15) :
    let g' := (List.range n).foldl
      (fun g i => g.setCell (fmtPos i).1 (fmtPos i).2 (codeOfBit (f.getLsbD i))) g
    (∀ i < n, g'.cell (fmtPos i).1 (fmtPos i).2 = codeOfBit (f.getLsbD i)) ∧
      ∀ x y, (∀ i < n, fmtPos i ≠ (x, y)) → g'.cell x y = g.cell x y := by
  induction n with
  | zero => simp
  | succ n ih =>
    obtain ⟨h1, h2⟩ := ih (by omega)
    have hin : (fmtPos n).1 < Config.maxSide ∧ (fmtPos n).2 < Config.maxSide := by
      unfold fmtPos
      simp only [Config.maxSide]
      split <;> simp only <;> omega
    simp only [List.range_succ, List.foldl_append, List.foldl_cons, List.foldl_nil]
    refine ⟨fun i hi => ?_, fun x y hxy => ?_⟩
    · rw [Grid.cell_setCell _ _ hin.1 hin.2]
      by_cases hc : i = n
      · simp [hc]
      · rw [if_neg, h1 i (by omega)]
        rintro ⟨hx, hy⟩
        exact hc (fmtPos_injective (by omega) (by omega) (Prod.ext hx hy))
    · rw [Grid.cell_setCell_ne, h2 x y (fun i hi => hxy i (by omega))]
      rintro ⟨rfl, rfl⟩
      exact hxy n (by omega) rfl

/-- What the 15 format writes do: bit i goes to FMTPOS[i], and no other cell changes (45_format.md
R144). -/
theorem writeFormat_spec (f : BitVec 15) (g : Grid) :
    (∀ i < 15, (writeFormat f g).cell (fmtPos i).1 (fmtPos i).2 = codeOfBit (f.getLsbD i)) ∧
      ∀ x y, (∀ i < 15, fmtPos i ≠ (x, y)) → (writeFormat f g).cell x y = g.cell x y :=
  writeFormat_prefix f g (Nat.le_refl 15)

end Sys2Proof.Machine
end

