-- ==== Sys2Proof/Laws/Patterns.lean ====
section
/-!
SUPPORT. What the two ways of writing a list of cells can do (43_patterns.md R122, R124).
-/

namespace Sys2Proof.Machine

/-- The coordinates of a cell to write. -/
def CellWrite.at (c : CellWrite) : Nat × Nat := (c.1, c.2.1)

/-- Whether a cell to write lies in the storage. -/
def CellWrite.stored (c : CellWrite) : Prop := c.1 < Config.maxSide ∧ c.2.1 < Config.maxSide

/-- On cells that are all EMPTY, distinct and in the storage, the checked writes are all made, and no
other cell changes. -/
theorem writeFresh_done (l : List CellWrite) (g : Grid) (hst : ∀ c ∈ l, CellWrite.stored c)
    (hnd : (l.map CellWrite.at).Nodup) (he : ∀ c ∈ l, g.cell c.1 c.2.1 = .empty) :
    ∃ g', writeFresh l g = .done g' ∧ (∀ c ∈ l, g'.cell c.1 c.2.1 = c.2.2) ∧
      ∀ x y, (x, y) ∉ l.map CellWrite.at → g'.cell x y = g.cell x y := by
  induction l generalizing g with
  | nil => exact ⟨g, rfl, by simp, fun _ _ _ => rfl⟩
  | cons c l ih =>
    obtain ⟨x, y, k⟩ := c
    rw [List.map_cons, List.nodup_cons] at hnd
    have hxy : x < Config.maxSide ∧ y < Config.maxSide := hst _ (List.mem_cons_self ..)
    have hget := Grid.cell_setCell g k hxy.1 hxy.2
    have hne : ∀ c ∈ l, ¬(c.1 = x ∧ c.2.1 = y) := by
      rintro c hc ⟨h1, h2⟩
      exact hnd.1 (List.mem_map.2 ⟨c, hc, by simp [CellWrite.at, h1, h2]⟩)
    obtain ⟨g', hw, hcells, hrest⟩ := ih (g.setCell x y k)
      (fun c hc => hst c (List.mem_cons_of_mem _ hc)) hnd.2
      (fun c hc => by rw [hget, if_neg (hne c hc)]; exact he c (List.mem_cons_of_mem _ hc))
    refine ⟨g', ?_, ?_, ?_⟩
    · rw [writeFresh, if_neg (by simpa using he (x, y, k) (List.mem_cons_self ..)), hw]
    · intro c hc
      rcases List.mem_cons.1 hc with rfl | hc
      · rw [hrest x y hnd.1, hget]; simp
      · exact hcells c hc
    · intro x' y' hn
      rw [List.map_cons, List.mem_cons, not_or] at hn
      rw [hrest x' y' hn.2, hget, if_neg (by rintro ⟨rfl, rfl⟩; exact hn.1 rfl)]

/-- If one of the cells is not EMPTY, the checked writes stop with StructuralOverwrite (43_patterns.md
R122). -/
theorem writeFresh_failed (l : List CellWrite) (g : Grid) (hnd : (l.map CellWrite.at).Nodup)
    (hne : ∃ c ∈ l, g.cell c.1 c.2.1 ≠ .empty) :
    ∃ g', writeFresh l g = .failed .structuralOverwrite g' := by
  induction l generalizing g with
  | nil => obtain ⟨c, hc, -⟩ := hne; cases hc
  | cons c l ih =>
    obtain ⟨x, y, k⟩ := c
    rw [List.map_cons, List.nodup_cons] at hnd
    by_cases hc : g.cell x y = .empty
    · obtain ⟨d, hd, hdne⟩ := hne
      rcases List.mem_cons.1 hd with rfl | hd
      · exact absurd hc hdne
      · rw [writeFresh, if_neg (by simpa using hc)]
        refine ih _ hnd.2 ⟨d, hd, ?_⟩
        rw [Grid.cell_setCell_ne]
        · exact hdne
        · rintro ⟨h1, h2⟩
          exact hnd.1 (List.mem_map.2 ⟨d, hd, by simp [CellWrite.at, h1, h2]⟩)
    · exact ⟨g, by rw [writeFresh, if_pos hc]⟩

/-- The checked writes can fail in no other way. -/
theorem writeFresh_cases (l : List CellWrite) (g : Grid) :
    (∃ g', writeFresh l g = .done g') ∨ ∃ g', writeFresh l g = .failed .structuralOverwrite g' := by
  induction l generalizing g with
  | nil => exact .inl ⟨g, rfl⟩
  | cons c l ih =>
    obtain ⟨x, y, k⟩ := c
    rw [writeFresh]
    split
    · exact .inr ⟨g, rfl⟩
    · exact ih _

/-- On cells none of which is INVALID, distinct and in the storage, the timing writes fill the EMPTY
ones and leave every other cell as it was (43_patterns.md R124). -/
theorem writeTiming_done (l : List CellWrite) (g : Grid) (hst : ∀ c ∈ l, CellWrite.stored c)
    (hnd : (l.map CellWrite.at).Nodup) (hi : ∀ c ∈ l, g.cell c.1 c.2.1 ≠ .invalid) :
    ∃ g', writeTiming l g = .done g' ∧
      (∀ c ∈ l, g'.cell c.1 c.2.1 =
        if g.cell c.1 c.2.1 = .empty then c.2.2 else g.cell c.1 c.2.1) ∧
      ∀ x y, (x, y) ∉ l.map CellWrite.at → g'.cell x y = g.cell x y := by
  induction l generalizing g with
  | nil => exact ⟨g, rfl, by simp, fun _ _ _ => rfl⟩
  | cons c l ih =>
    obtain ⟨x, y, k⟩ := c
    rw [List.map_cons, List.nodup_cons] at hnd
    have hxy : x < Config.maxSide ∧ y < Config.maxSide := hst _ (List.mem_cons_self ..)
    have hne : ∀ c ∈ l, ¬(c.1 = x ∧ c.2.1 = y) := by
      rintro c hc ⟨h1, h2⟩
      exact hnd.1 (List.mem_map.2 ⟨c, hc, by simp [CellWrite.at, h1, h2]⟩)
    have hnow : g.cell x y ≠ .invalid := hi (x, y, k) (List.mem_cons_self ..)
    by_cases hc : g.cell x y = .empty
    · have hget := Grid.cell_setCell g k hxy.1 hxy.2
      obtain ⟨g', hw, hcells, hrest⟩ := ih (g.setCell x y k)
        (fun c hc => hst c (List.mem_cons_of_mem _ hc)) hnd.2
        (fun c hc => by rw [hget, if_neg (hne c hc)]; exact hi c (List.mem_cons_of_mem _ hc))
      refine ⟨g', ?_, ?_, ?_⟩
      · rw [writeTiming, if_neg hnow, if_pos hc, hw]
      · intro c hcm
        rcases List.mem_cons.1 hcm with rfl | hcm
        · rw [hrest x y hnd.1, hget]; simp [hc]
        · rw [hcells c hcm, hget, if_neg (hne c hcm)]
      · intro x' y' hn
        rw [List.map_cons, List.mem_cons, not_or] at hn
        rw [hrest x' y' hn.2, hget, if_neg (by rintro ⟨rfl, rfl⟩; exact hn.1 rfl)]
    · obtain ⟨g', hw, hcells, hrest⟩ := ih g
        (fun c hc => hst c (List.mem_cons_of_mem _ hc)) hnd.2
        (fun c hc => hi c (List.mem_cons_of_mem _ hc))
      refine ⟨g', ?_, ?_, ?_⟩
      · rw [writeTiming, if_neg hnow, if_neg hc, hw]
      · intro c hcm
        rcases List.mem_cons.1 hcm with rfl | hcm
        · rw [hrest x y hnd.1]; simp [hc]
        · exact hcells c hcm
      · intro x' y' hn
        rw [List.map_cons, List.mem_cons, not_or] at hn
        exact hrest x' y' hn.2

/-- If one of the cells is INVALID, the timing writes stop with PostconditionViolation (43_patterns.md
R124). -/
theorem writeTiming_failed (l : List CellWrite) (g : Grid) (hnd : (l.map CellWrite.at).Nodup)
    (hi : ∃ c ∈ l, g.cell c.1 c.2.1 = .invalid) :
    ∃ g', writeTiming l g = .failed .postconditionViolation g' := by
  induction l generalizing g with
  | nil => obtain ⟨c, hc, -⟩ := hi; cases hc
  | cons c l ih =>
    obtain ⟨x, y, k⟩ := c
    rw [List.map_cons, List.nodup_cons] at hnd
    by_cases hc : g.cell x y = .invalid
    · exact ⟨g, by rw [writeTiming, if_pos hc]⟩
    · obtain ⟨d, hd, hdi⟩ := hi
      rcases List.mem_cons.1 hd with rfl | hd
      · exact absurd hdi hc
      · rw [writeTiming, if_neg hc]
        split
        · refine ih _ hnd.2 ⟨d, hd, ?_⟩
          rw [Grid.cell_setCell_ne]
          · exact hdi
          · rintro ⟨h1, h2⟩
            exact hnd.1 (List.mem_map.2 ⟨d, hd, by simp [CellWrite.at, h1, h2]⟩)
        · exact ih _ hnd.2 ⟨d, hd, hdi⟩

/-- The timing writes can fail in no other way. -/
theorem writeTiming_cases (l : List CellWrite) (g : Grid) :
    (∃ g', writeTiming l g = .done g') ∨
      ∃ g', writeTiming l g = .failed .postconditionViolation g' := by
  induction l generalizing g with
  | nil => exact .inl ⟨g, rfl⟩
  | cons c l ih =>
    obtain ⟨x, y, k⟩ := c
    rw [writeTiming]
    split
    · exact .inr ⟨g, rfl⟩
    · split
      · exact ih _
      · exact ih _

/-- The finder's shape check passes (43_patterns.md R126). -/
theorem sevenBySeven_FINDER : sevenBySeven FINDER = true := by decide

/-- EMBPAT's body on a matrix that is large enough: the writes, without the shape error. -/
theorem embpatStage_eq (s : State) (h : ¬ s.side < 8) :
    embpatStage s = (writePatterns FINDER s.side s.grid).map s.setGrid := by
  rw [embpatStage, embpatStageWith, if_neg h, sevenBySeven_FINDER]
  simp

/-- EMBPAT's body on a matrix too small for the patterns (43_patterns.md R120). -/
theorem embpatStage_small (s : State) (h : s.side < 8) :
    embpatStage s = .failed .outOfBounds s := by
  rw [embpatStage, embpatStageWith, if_pos h]

/-- EMBPAT's body changes nothing but cells, however it ends. -/
theorem embpatStage_cases (s : State) :
    (∃ g, embpatStage s = .done (s.setGrid g)) ∨
    embpatStage s = .failed .outOfBounds s ∨
    (∃ g, embpatStage s = .failed .structuralOverwrite (s.setGrid g)) ∨
    ∃ g, embpatStage s = .failed .postconditionViolation (s.setGrid g) := by
  by_cases h : s.side < 8
  · exact .inr (.inl (embpatStage_small s h))
  · rw [embpatStage_eq s h, writePatterns]
    rcases writeFresh_cases (finderWrites FINDER) s.grid with ⟨g, hg⟩ | ⟨g, hg⟩
    · rcases writeFresh_cases rowSeparatorWrites g with ⟨g1, hg1⟩ | ⟨g1, hg1⟩
      · rcases writeFresh_cases columnSeparatorWrites g1 with ⟨g2, hg2⟩ | ⟨g2, hg2⟩
        · rcases writeTiming_cases (timingWrites s.side) g2 with ⟨g3, hg3⟩ | ⟨g3, hg3⟩
          · exact .inl ⟨g3, by simp [hg, hg1, hg2, hg3]⟩
          · exact .inr (.inr (.inr ⟨g3, by simp [hg, hg1, hg2, hg3]⟩))
        · exact .inr (.inr (.inl ⟨g2, by simp [hg, hg1, hg2]⟩))
      · exact .inr (.inr (.inl ⟨g1, by simp [hg, hg1]⟩))
    · exact .inr (.inr (.inl ⟨g, by simp [hg]⟩))

end Sys2Proof.Machine
end

