-- ==== Sys2Proof/Laws/PerInstr.lean ====
section
/-!
SUPPORT. Statements made once per constructor of `Instr`: the word of an instruction belongs to its row
of the opcode table (30_encoding.md R65).
-/

namespace Sys2Proof.Laws.TableRow

/-- The row of each instruction. -/
def opOf : Instr → Op
  | .clear => .clear
  | .embpat => .embpat
  | .embfmt => .embfmt
  | .embdata _ => .embdata
  | .encode _ => .encode
  | .msbpos => .msbpos
  | .bchrem => .bchrem
  | .fmtbits => .fmtbits
  | .get _ _ => .get
  | .set _ _ _ => .set
  | .vclr _ => .vclr
  | .vapp _ _ => .vapp
  | .vxor _ _ _ => .vxor
  | .vget _ => .vget
  | .vlen _ => .vlen

/-- Some row of the table is the instruction's own, and its word equals the row's pattern under the
row's mask. -/
def Statement (i : Instr) : Prop :=
  ∃ r ∈ opTable, r.op = opOf i ∧ encode i &&& r.mask = r.pattern

theorem clear : Statement .clear := ⟨⟨.clear, 0x01000000#32, 0xFFFFFFFF#32⟩, by decide, by decide⟩

theorem embpat : Statement .embpat := ⟨⟨.embpat, 0x02000000#32, 0xFFFFFFFF#32⟩, by decide, by decide⟩

theorem embfmt : Statement .embfmt := ⟨⟨.embfmt, 0x03000000#32, 0xFFFFFFFF#32⟩, by decide, by decide⟩

theorem embdata (vs1 : VReg) : Statement (.embdata vs1) :=
  ⟨⟨.embdata, 0x04000000#32, 0xFFCFFFFF#32⟩, by decide, by cases vs1 <;> decide⟩

theorem encode (vs1 : VReg) : Statement (.encode vs1) :=
  ⟨⟨.encode, 0x05000000#32, 0xFFCFFFFF#32⟩, by decide, by cases vs1 <;> decide⟩

theorem msbpos : Statement .msbpos := ⟨⟨.msbpos, 0x08000000#32, 0xFFFFFFFF#32⟩, by decide, by decide⟩

theorem bchrem : Statement .bchrem := ⟨⟨.bchrem, 0x09000000#32, 0xFFFFFFFF#32⟩, by decide, by decide⟩

theorem fmtbits : Statement .fmtbits :=
  ⟨⟨.fmtbits, 0x0A000000#32, 0xFFFFFFFF#32⟩, by decide, by decide⟩

/-- A word of format C under a mask that drops the operand bits. -/
theorem formatC_and (opc : BitVec 8) (b : Bool) (x y : BitVec 8) :
    formatC opc b x y &&& 0xFFFE0000#32 = opc ++ 0#24 := by
  apply BitVec.eq_of_getLsbD_eq
  intro i hi
  simp only [formatC, BitVec.getLsbD_and, BitVec.getLsbD_append]
  interval_cases i <;> simp

/-- A word of format C with B = 0, under a mask that keeps B. -/
theorem formatC_zero_and (opc : BitVec 8) (x y : BitVec 8) :
    formatC opc false x y &&& 0xFFFF0000#32 = opc ++ 0#24 := by
  apply BitVec.eq_of_getLsbD_eq
  intro i hi
  simp only [formatC, BitVec.getLsbD_and, BitVec.getLsbD_append]
  interval_cases i <;> simp

theorem get (x y : BitVec 8) : Statement (.get x y) :=
  ⟨⟨.get, 0x10000000#32, 0xFFFF0000#32⟩, by decide, rfl, formatC_zero_and 0x10#8 x y⟩

theorem set (x y : BitVec 8) (b : Bool) : Statement (.set x y b) :=
  ⟨⟨.set, 0x11000000#32, 0xFFFE0000#32⟩, by decide, rfl, formatC_and 0x11#8 b x y⟩

theorem vclr (vd : VReg) : Statement (.vclr vd) :=
  ⟨⟨.vclr, 0x18000000#32, 0xFF3FFFFF#32⟩, by decide, by cases vd <;> decide⟩

theorem vapp (vd : VReg) (nb : BitVec 6) : Statement (.vapp vd nb) :=
  ⟨⟨.vapp, 0x19000000#32, 0xFF3FFFC0#32⟩, by decide, rfl, by cases vd <;> revert nb <;> decide⟩

theorem vxor (vd vs1 vs2 : VReg) : Statement (.vxor vd vs1 vs2) :=
  ⟨⟨.vxor, 0x1A000000#32, 0xFF03FFFF#32⟩, by decide, by cases vd <;> cases vs1 <;> cases vs2 <;> decide⟩

theorem vget (vs1 : VReg) : Statement (.vget vs1) :=
  ⟨⟨.vget, 0x1B000000#32, 0xFFCFFFFF#32⟩, by decide, by cases vs1 <;> decide⟩

theorem vlen (vs1 : VReg) : Statement (.vlen vs1) :=
  ⟨⟨.vlen, 0x1C000000#32, 0xFFCFFFFF#32⟩, by decide, by cases vs1 <;> decide⟩

end Sys2Proof.Laws.TableRow
end

