-- ==== Sys2Proof/Laws/Placer.lean ====
section
/-!
SUPPORT. What one cell of the placer's traversal can do, and what a list of distinct cells, placed one
after another, comes to (46_placer.md R151 to R153).
-/

namespace Sys2Proof.Machine

/-- A non-empty cell is skipped (46_placer.md R151). -/
theorem placeCell_skip (p : Payload) (x y : Nat) (gi : Grid × Nat) (h : gi.1.cell x y ≠ .empty) :
    placeCell p x y gi = gi := by
  rw [placeCell, if_pos h]

/-- An EMPTY cell is written (46_placer.md R152, R153). -/
theorem placeCell_write (p : Payload) (x y : Nat) (gi : Grid × Nat) (h : gi.1.cell x y = .empty) :
    placeCell p x y gi =
      (gi.1.setCell x y (codeOfBit (p.bitAt gi.2 x y)), min (gi.2 + 1) (max gi.2 p.bits.length)) := by
  rw [placeCell, if_neg (by simpa using h)]
  congr 1
  split <;> omega

/-- The placer changes no cell that is not EMPTY. -/
theorem placeCell_keeps (p : Payload) (x y : Nat) (gi : Grid × Nat) {x' y' : Nat}
    (h : gi.1.cell x' y' ≠ .empty) : (placeCell p x y gi).1.cell x' y' = gi.1.cell x' y' := by
  by_cases hc : gi.1.cell x y = .empty
  · rw [placeCell_write p x y gi hc]
    apply Grid.cell_setCell_ne
    rintro ⟨rfl, rfl⟩
    exact h hc
  · rw [placeCell_skip p x y gi hc]

/-- The cells of a list, placed one after another. -/
def placeAll (p : Payload) (l : List (Nat × Nat)) (gi : Grid × Nat) : Grid × Nat :=
  l.foldl (fun gi c => placeCell p c.1 c.2 gi) gi

/-- What placing distinct cells of the storage comes to: the k-th EMPTY one gets the bit that follows
the idx already consumed, no other cell changes, and the count of consumed bits grows by the number of
EMPTY cells but not past the payload. -/
theorem placeAll_spec (p : Payload) (l : List (Nat × Nat)) (gi : Grid × Nat) (hnd : l.Nodup)
    (hst : ∀ c ∈ l, c.1 < Config.maxSide ∧ c.2 < Config.maxSide) (hidx : gi.2 ≤ p.bits.length) :
    let e := l.filter fun c => gi.1.cell c.1 c.2 == .empty
    (placeAll p l gi).2 = min (gi.2 + e.length) p.bits.length ∧
      (∀ k c, e[k]? = some c →
        (placeAll p l gi).1.cell c.1 c.2 =
          codeOfBit (p.bitAt (min (gi.2 + k) p.bits.length) c.1 c.2)) ∧
      ∀ x y, (x, y) ∉ e → (placeAll p l gi).1.cell x y = gi.1.cell x y := by
  induction l generalizing gi with
  | nil => simp [placeAll]; omega
  | cons c l ih =>
    obtain ⟨x, y⟩ := c
    rw [List.nodup_cons] at hnd
    have hxy := hst (x, y) (List.mem_cons_self ..)
    have hst' := fun c hc => hst c (List.mem_cons_of_mem _ hc)
    have hstep : placeAll p ((x, y) :: l) gi = placeAll p l (placeCell p x y gi) := rfl
    by_cases hc : gi.1.cell x y = .empty
    · have hw := placeCell_write p x y gi hc
      have hget := Grid.cell_setCell gi.1 (codeOfBit (p.bitAt gi.2 x y)) hxy.1 hxy.2
      have hfil : (l.filter fun c => (placeCell p x y gi).1.cell c.1 c.2 == .empty)
          = l.filter fun c => gi.1.cell c.1 c.2 == .empty := by
        apply List.filter_congr
        intro c hcl
        rw [hw, hget, if_neg]
        rintro ⟨h1, h2⟩
        exact hnd.1 (by rwa [show (x, y) = c from Prod.ext h1.symm h2.symm])
      have hle : (placeCell p x y gi).2 ≤ p.bits.length := by rw [hw]; simp only; omega
      obtain ⟨h1, h2, h3⟩ := ih (placeCell p x y gi) hnd.2 hst' hle
      rw [hfil] at h1 h2 h3
      rw [hstep]
      simp only [List.filter_cons, hc, beq_self_eq_true, if_true]
      have hsnd : (placeCell p x y gi).2 = min (gi.2 + 1) p.bits.length := by
        rw [hw]; simp only; omega
      refine ⟨?_, ?_, ?_⟩
      · rw [h1, hsnd, List.length_cons]; omega
      · intro k c hk
        cases k with
        | zero =>
          simp only [List.getElem?_cons_zero, Option.some.injEq] at hk
          subst hk
          rw [h3 x y (fun hm => hnd.1 (List.mem_filter.1 hm).1), hw, hget]
          simp [hidx]
        | succ k =>
          rw [List.getElem?_cons_succ] at hk
          rw [h2 k c hk, hsnd]
          congr 2
          omega
      · intro x' y' hn
        rw [List.mem_cons, not_or] at hn
        rw [h3 x' y' hn.2, hw, hget, if_neg]
        rintro ⟨rfl, rfl⟩
        exact hn.1 rfl
    · rw [hstep, placeCell_skip p x y gi hc]
      have hf : (((x, y) :: l).filter fun c => gi.1.cell c.1 c.2 == .empty)
          = l.filter fun c => gi.1.cell c.1 c.2 == .empty := by
        simp [hc]
      simp only [hf]
      exact ih gi hnd.2 hst' hidx

/-- The sentinel -1, and the four patterns, are all that the placer admits (46_placer.md R154). -/
theorem placerMask_eq_none_iff (maskv : Int) :
    placerMask maskv = none ↔
      maskv ≠ -1 ∧ maskv ≠ 0 ∧ maskv ≠ 1 ∧ maskv ≠ 2 ∧ maskv ≠ 3 := by
  unfold placerMask maskIdentifier
  split <;> rename_i h
  · simp [h]
  · repeat' split
    all_goals simp_all

/-- EMBDATA's body changes nothing but cells, CONSUMED and TOTAL, and nothing at all if the mask is
illegal (46_placer.md R154, R156). -/
theorem embdataStageWith_cases (fn : MaskFn) (vs1 : VReg) (s : State) :
    embdataStageWith fn vs1 s = .failed .invalidMaskPattern s ∨
    ∃ (g : Grid) (n : Nat),
      (n = (s.vec vs1).length ∧ embdataStageWith fn vs1 s =
        .done ((s.setGrid g).setCounts (BitVec.ofNat 32 n) (BitVec.ofNat 32 (s.vec vs1).length))) ∨
      (n ≠ (s.vec vs1).length ∧ embdataStageWith fn vs1 s = .failed .dataOverflow
        ((s.setGrid g).setCounts (BitVec.ofNat 32 n) (BitVec.ofNat 32 (s.vec vs1).length))) := by
  unfold embdataStageWith
  cases hm : placerMask (cfgMaskv s.cfg) with
  | none => exact .inl rfl
  | some mask =>
    refine .inr ⟨(place ⟨s.vec vs1, mask, fn⟩ s.side s.grid).1,
      (place ⟨s.vec vs1, mask, fn⟩ s.side s.grid).2, ?_⟩
    by_cases h : (place ⟨s.vec vs1, mask, fn⟩ s.side s.grid).2 = (s.vec vs1).length
    · exact .inl ⟨h, by simp [h]⟩
    · exact .inr ⟨h, by simp [h]⟩

/-- The visiting order stays inside the active region (46_placer.md R159). -/
theorem visitOrder_bounds {dim : Nat} {c : Nat × Nat} (h : c ∈ visitOrder dim) :
    c.1 < dim ∧ c.2 < dim := by
  simp only [visitOrder, pairOrder, List.mem_flatMap, List.mem_range] at h
  obtain ⟨k, hk, j, hj, hc⟩ := h
  simp only [List.mem_cons, List.not_mem_nil, or_false] at hc
  rcases hc with rfl | rfl <;> simp only <;> split <;> omega

/-- The visiting order visits no cell twice (46_placer.md R155). -/
theorem visitOrder_nodup (dim : Nat) : (visitOrder dim).Nodup := by
  have pair : ∀ k < dim / 2, (pairOrder dim k).Nodup := by
    intro k hk
    rw [pairOrder, List.nodup_flatMap]
    refine ⟨fun j hj => ?_, ?_⟩
    · simp only [List.nodup_cons, List.mem_singleton, List.not_mem_nil, not_false_eq_true,
        List.nodup_nil, and_true, Prod.mk.injEq]
      omega
    · refine List.Pairwise.imp_of_mem ?_ (List.nodup_range (n := dim))
      intro a b ha hb hab
      rw [List.mem_range] at ha hb
      simp only [Function.onFun, List.disjoint_cons_left, List.mem_cons, List.not_mem_nil, or_false,
        Prod.mk.injEq, List.disjoint_nil_left, and_true]
      split <;> omega
  rw [visitOrder, List.nodup_flatMap]
  refine ⟨fun k hk => pair k (List.mem_range.1 hk), ?_⟩
  refine List.Pairwise.imp_of_mem ?_ (List.nodup_range (n := dim / 2))
  intro a b ha hb hab
  rw [List.mem_range] at ha hb
  intro c hca hcb
  simp only [pairOrder, List.mem_flatMap, List.mem_range, List.mem_cons, List.not_mem_nil,
    or_false] at hca hcb
  obtain ⟨ja, -, hca⟩ := hca
  obtain ⟨jb, -, hcb⟩ := hcb
  have h1 : c.1 = dim - 1 - 2 * a ∨ c.1 = dim - 2 - 2 * a := by
    rcases hca with h | h <;> simp [h]
  have h2 : c.1 = dim - 1 - 2 * b ∨ c.1 = dim - 2 - 2 * b := by
    rcases hcb with h | h <;> simp [h]
  omega

/-- Every active cell is visited, but for column 0 on an odd side (46_placer.md R155). -/
theorem mem_visitOrder {dim x y : Nat} (hx : x < dim) (hy : y < dim) (h0 : x ≠ 0 ∨ dim % 2 = 0) :
    (x, y) ∈ visitOrder dim := by
  simp only [visitOrder, pairOrder, List.mem_flatMap, List.mem_range, List.mem_cons,
    List.not_mem_nil, or_false, Prod.mk.injEq]
  refine ⟨(dim - 1 - x) / 2, by omega,
    if (dim - 1 - x) / 2 % 2 = 0 then dim - 1 - y else y, by split <;> omega, ?_⟩
  split <;> omega

end Sys2Proof.Machine
end

