-- ==== Sys2Proof/Laws/Storage.lean ====
section
/-!
SUPPORT. Every operation on the matrix keeps the storage's form, `Grid.fits`: there is no cell beyond
NMAX (10_state.md R30). The side DIM is at most NMAX throughout (R27).
-/

namespace Sys2Proof.Machine

/-- What has been written when a command or a stage ends, however it ends. -/
def Ending.last {α : Type} : Ending α → α
  | .done a => a
  | .failed _ a => a

@[simp] theorem Ending.last_done {α : Type} (a : α) : (Ending.done a).last = a := rfl

@[simp] theorem Ending.last_failed {α : Type} (e : ErrorKind) (a : α) :
    (Ending.failed e a).last = a := rfl

@[simp] theorem Ending.last_map {α β : Type} (f : α → β) (r : Ending α) :
    (r.map f).last = f r.last := by cases r <;> rfl

@[simp] theorem Ending.settle_grid (r : Ending State) : r.settle.grid = r.last.grid := by
  cases r <;> rfl

@[simp] theorem Ending.settle_params (r : Ending State) : r.settle.params = r.last.params := by
  cases r <;> rfl

/-- What holds when a stage ends, and is kept by the next, holds when both have ended. -/
theorem Ending.last_andThen {α : Type} {P : α → Prop} {r : Ending α} {f : α → Ending α}
    (hr : P r.last) (hf : ∀ a, P a → P (f a).last) : P (r.andThen f).last := by
  cases r with
  | done a => exact hf a hr
  | failed e a => exact hr

/-- Whether every cell to write is a cell of a storage of side n. -/
def below (n : Nat) (l : List CellWrite) : Prop := ∀ c ∈ l, c.1 < n ∧ c.2.1 < n

theorem writeFresh_fits {n : Nat} {l : List CellWrite} (hl : below n l) {g : Grid} (hg : g.fits n) :
    (writeFresh l g).last.fits n := by
  induction l generalizing g with
  | nil => exact hg
  | cons c l ih =>
    obtain ⟨x, y, k⟩ := c
    have hc := hl _ (List.mem_cons_self ..)
    rw [writeFresh]
    split
    · exact hg
    · exact ih (fun c h => hl c (List.mem_cons_of_mem _ h)) (Grid.fits_setCell k hg hc.1 hc.2)

theorem writeTiming_fits {n : Nat} {l : List CellWrite} (hl : below n l) {g : Grid} (hg : g.fits n) :
    (writeTiming l g).last.fits n := by
  induction l generalizing g with
  | nil => exact hg
  | cons c l ih =>
    obtain ⟨x, y, k⟩ := c
    have hc := hl _ (List.mem_cons_self ..)
    have hl' : below n l := fun c h => hl c (List.mem_cons_of_mem _ h)
    rw [writeTiming]
    split
    · exact hg
    · split
      · exact ih hl' (Grid.fits_setCell k hg hc.1 hc.2)
      · exact ih hl' hg

/-- The cells of EMBPAT are active for DIM >= 8 (43_patterns.md R120). -/
theorem patternWrites_below {dim : Nat} (h : 8 ≤ dim) :
    below dim (finderWrites FINDER) ∧ below dim rowSeparatorWrites ∧
      below dim columnSeparatorWrites ∧ below dim (timingWrites dim) := by
  refine ⟨?_, ?_, ?_, ?_⟩ <;> intro c hc
  · simp only [finderWrites, List.mem_flatMap, List.mem_map, List.mem_range] at hc
    obtain ⟨y, hy, x, hx, rfl⟩ := hc
    exact ⟨by simp only; omega, by simp only; omega⟩
  · simp only [rowSeparatorWrites, List.mem_map, List.mem_range] at hc
    obtain ⟨x, hx, rfl⟩ := hc
    exact ⟨by simp only; omega, by simp only; omega⟩
  · simp only [columnSeparatorWrites, List.mem_map, List.mem_range] at hc
    obtain ⟨y, hy, rfl⟩ := hc
    exact ⟨by simp only; omega, by simp only; omega⟩
  · simp only [timingWrites, List.mem_flatMap, List.mem_range'_1, List.mem_cons, List.not_mem_nil,
      or_false] at hc
    obtain ⟨i, hi, rfl | rfl⟩ := hc <;> exact ⟨by simp only; omega, by simp only; omega⟩

theorem below_mono {m n : Nat} (h : m ≤ n) {l : List CellWrite} (hl : below m l) : below n l :=
  fun c hc => ⟨Nat.lt_of_lt_of_le (hl c hc).1 h, Nat.lt_of_lt_of_le (hl c hc).2 h⟩

/-- What a state needs for its commands to keep the form of its storage: the form, and DIM <= NMAX. -/
def State.stored (s : State) : Prop := s.side ≤ s.params.nmax ∧ s.grid.fits s.params.nmax

/-- A state with the same parameters and side whose matrix has the form. -/
theorem State.stored_of_grid {s t : State} (hs : s.stored) (hp : t.params = s.params)
    (hd : t.side = s.side) (hg : t.grid.fits s.params.nmax) : t.stored := by
  rw [State.stored, hp, hd]
  exact ⟨hs.1, hg⟩

/-- A cleared matrix has the form. -/
theorem clearMatrix_stored {s : State} (hs : s.stored) : s.clearMatrix.stored :=
  s.stored_of_grid hs rfl rfl (Grid.cleared_fits _)

theorem embpatStage_stored {s : State} (hs : s.stored) : (embpatStage s).last.stored := by
  by_cases h : s.side < 8
  · rw [embpatStage_small s h]
    exact hs
  · obtain ⟨h1, h2, h3, h4⟩ := patternWrites_below (Nat.le_of_not_lt h)
    rw [embpatStage_eq s h, Ending.last_map]
    refine s.stored_of_grid hs rfl rfl ?_
    have fresh : ∀ {l}, below s.side l → ∀ g : Grid, g.fits s.params.nmax →
        (writeFresh l g).last.fits s.params.nmax :=
      fun hl _ hg => writeFresh_fits (below_mono hs.1 hl) hg
    rw [State.setGrid_grid, writePatterns]
    exact Ending.last_andThen (Ending.last_andThen
      (Ending.last_andThen (fresh h1 _ hs.2) (fresh h2)) (fresh h3))
      fun _ hg => writeTiming_fits (below_mono hs.1 h4) hg

/-- The format cells are cells of any storage of side at least 9 (45_format.md R144). -/
theorem writeFormat_fits {n : Nat} (f : BitVec 15) {g : Grid} (hn : 9 ≤ n) (hg : g.fits n) :
    (writeFormat f g).fits n := by
  refine Grid.fits_of_cells_eq hg fun x y hxy => (writeFormat_spec f g).2 x y fun i hi he => ?_
  unfold fmtPos at he
  split at he <;> simp only [Prod.mk.injEq] at he <;> omega

theorem embfmtStage_stored {s : State} (hs : s.stored) : (embfmtStage s).last.stored := by
  rcases embfmtStage_cases s with ⟨f, -, h9, he⟩ | ⟨e, -, he⟩ | ⟨-, -, he⟩ <;> rw [he]
  · exact s.stored_of_grid hs (by simp) (by simp)
      (by simpa using writeFormat_fits f (Nat.le_trans h9 hs.1) hs.2)
  · exact hs
  · exact hs

theorem placeCell_fits {n : Nat} (p : Payload) {x y : Nat} {gi : Grid × Nat} (hx : x < n) (hy : y < n)
    (hg : gi.1.fits n) : (placeCell p x y gi).1.fits n := by
  by_cases hc : gi.1.cell x y = .empty
  · rw [placeCell_write p x y gi hc]
    exact Grid.fits_setCell _ hg hx hy
  · rw [placeCell_skip p x y gi hc]
    exact hg

/-- One pair of columns: the traversal stays in its columns, and the storage keeps its form. -/
theorem walkPair_fits {n dim : Nat} (p : Payload) (hn : dim ≤ n) (fuel : Nat) (t : Traversal) (g : Grid)
    (h0 : 0 < t.x) (hx : t.x < dim) (hg : g.fits n) :
    (walkPair p dim fuel t g).1.x = t.x ∧ (walkPair p dim fuel t g).2.fits n := by
  induction fuel generalizing t g with
  | zero => exact ⟨rfl, hg⟩
  | succ fuel ih =>
    rw [walkPair]
    split
    · rename_i hy
      exact ih _ _ h0 hx (placeCell_fits p (by omega) (by omega)
        (placeCell_fits p (by omega) (by omega) hg))
    · exact ⟨rfl, hg⟩

theorem walkPairs_fits {n dim : Nat} (p : Payload) (hn : dim ≤ n) (fuel : Nat) (t : Traversal)
    (g : Grid) (hx : t.x < dim) (hg : g.fits n) : (walkPairs p dim fuel t g).2.fits n := by
  induction fuel generalizing t g with
  | zero => exact hg
  | succ fuel ih =>
    rw [walkPairs]
    split
    · rename_i h0
      obtain ⟨hwx, hwg⟩ := walkPair_fits p hn dim t g h0 hx hg
      exact ih _ _ (by simp only [hwx]; omega) hwg
    · exact hg

theorem embdataStageWith_stored {s : State} (fn : MaskFn) (vs1 : VReg) (hs : s.stored) :
    (embdataStageWith fn vs1 s).last.stored := by
  unfold embdataStageWith
  cases placerMask (cfgMaskv s.cfg) with
  | none => exact hs
  | some mask =>
    have hp : (place ⟨s.vec vs1, mask, fn⟩ s.side s.grid).1.fits s.params.nmax :=
      walkPairs_fits _ hs.1 _ _ _ (by simp only [Traversal.start]; omega) hs.2
    simp only
    split <;> exact s.stored_of_grid hs rfl rfl hp

/-- Every command keeps DIM <= NMAX and the storage's form, however it ends. -/
theorem bodyOf_stored (i : Instr) {s : State} (hs : s.stored) : (bodyOf i s).last.stored := by
  have keep : ∀ {t : State}, t.params = s.params → t.side = s.side → t.grid = s.grid → t.stored :=
    fun hp hd hg => s.stored_of_grid hs hp hd (by rw [hg]; exact hs.2)
  cases i with
  | clear => exact clearMatrix_stored hs
  | embpat => exact embpatStage_stored hs
  | embfmt => exact embfmtStage_stored hs
  | embdata vs1 => exact embdataStageWith_stored _ vs1 hs
  | encode vs1 =>
    exact Ending.last_andThen (Ending.last_andThen (embpatStage_stored (clearMatrix_stored hs))
      fun _ h => embfmtStage_stored h) fun _ h => embdataStageWith_stored _ vs1 h
  | msbpos => exact keep rfl rfl rfl
  | bchrem => simp only [bodyOf, bchremBody]; split <;> exact keep rfl rfl rfl
  | fmtbits =>
    simp only [bodyOf]
    rcases fmtbitsBody_cases s with ⟨f, -, he⟩ | ⟨e, -, he⟩ <;> rw [he] <;> exact keep rfl rfl rfl
  | get x y => simp only [bodyOf, getBody]; split <;> exact keep rfl rfl rfl
  | set x y b =>
    simp only [bodyOf, setBody]
    split
    · exact hs
    · rename_i ho
      simp only [State.outside, Bool.or_eq_true, decide_eq_true_eq, not_or, Nat.not_le] at ho
      exact s.stored_of_grid hs rfl rfl (Grid.fits_setCell _ hs.2 (Nat.lt_of_lt_of_le ho.1 hs.1)
        (Nat.lt_of_lt_of_le ho.2 hs.1))
  | vclr vd => exact keep (by simp [bodyOf]) (by simp [bodyOf]) (by simp [bodyOf])
  | vapp vd nb => simp only [bodyOf, vappBody]; split <;> exact keep (by simp) (by simp) (by simp)
  | vxor vd a b => simp only [bodyOf, vxorBody]; split <;> exact keep (by simp) (by simp) (by simp)
  | vget vs1 => simp only [bodyOf, vgetBody]; split <;> exact keep rfl rfl rfl
  | vlen vs1 => exact keep rfl rfl rfl

/-- Every command that answers a next state keeps DIM <= NMAX and the storage's form. -/
theorem exec_stored {i : Instr} {s t : State} (hs : s.stored) (h : exec i s = .next t) : t.stored := by
  rw [exec_eq_next_iff] at h
  subst h
  have hb := bodyOf_stored i hs
  cases hr : bodyOf i s <;> rw [hr] at hb <;> exact hb

end Sys2Proof.Machine
end

