-- ==== Sys2Proof/Tests/Slice0.lean ====
section
/-!
SUPPORT. The model's own tests. Expected values come from the spec's worked examples and vectors
(95_test_vectors.md, cited by item) or from the rules' own examples; `witness_` theorems show states and
operands that meet the hypotheses of the statement they are named after.
-/

namespace Sys2Proof.Machine.Tests

/-- A cleared matrix of the instance with the spec's default parameters. -/
abbrev cleared17 : Grid := Grid.cleared Params.standard.nmax

/-- The state after reset with a cleared matrix of the given side and the given CFG: the draws of
reset are replaced, so that every test evaluates. -/
def cleared (dim : Nat) (cfg : Word) : State :=
  { State.reset with dim := BitVec.ofNat 5 dim, cfg := cfg, grid := cleared17 }

/-- What a Boolean test says of a next state; false of a fault or a refusal. -/
def next (o : Host.Outcome State Fault Refusal) (p : State → Bool) : Bool :=
  match o with
  | .next s => p s
  | .fault _ => false
  | .refused _ => false

/-- The digits of a row of the matrix, left to right: 0 LIGHT, 1 DARK, 2 EMPTY, 3 INVALID. -/
def row (g : Grid) (dim y : Nat) : List Nat :=
  (List.range dim).map fun x => (cellCode (g.cell x y)).toNat

/-- A bit string, position 0 first. -/
def bits (n w : Nat) : List Bool := lowBits n w

/-- A matrix whose cells all hold one code. -/
def filled (c : Cell) : Grid := Vector.replicate Config.maxSide (Vector.replicate Config.maxSide c)

/-! ### Well-formedness -/

/-- NB = 33 is no append width (30_encoding.md R67). -/
theorem test_wellFormed_refuses_wide_append : (Instr.vapp .v0 33#6).wellFormed = false := by decide

theorem test_wellFormed_admits_widest_append : (Instr.vapp .v0 32#6).wellFormed = true := by decide

/-! ### Decoding: one word per constructor, from the formats of 30_encoding.md R61 and R64 -/

theorem test_decode_clear :
    decode 0b00000001_000000000000000000000000#32 = .command .clear := by decide

theorem test_decode_embpat :
    decode 0b00000010_000000000000000000000000#32 = .command .embpat := by decide

theorem test_decode_embfmt :
    decode 0b00000011_000000000000000000000000#32 = .command .embfmt := by decide

/-- VS1 = 1 (95_test_vectors.md T15). -/
theorem test_decode_embdata :
    decode 0b00000100_00_01_00_000000000000_000000#32 = .command (.embdata .v1) := by decide

/-- VS1 = 3 (95_test_vectors.md T15). -/
theorem test_decode_encode :
    decode 0b00000101_00_11_00_000000000000_000000#32 = .command (.encode .v3) := by decide

theorem test_decode_msbpos :
    decode 0b00001000_000000000000000000000000#32 = .command .msbpos := by decide

theorem test_decode_bchrem :
    decode 0b00001001_000000000000000000000000#32 = .command .bchrem := by decide

theorem test_decode_fmtbits :
    decode 0b00001010_000000000000000000000000#32 = .command .fmtbits := by decide

/-- `get 4, 3` (95_test_vectors.md T13): X is the higher byte. -/
theorem test_decode_get :
    decode 0b00010000_0000000_0_00000100_00000011#32 = .command (.get 4#8 3#8) := by decide

/-- `set 3, 4, 1` = 0x11010304 (30_encoding.md R69). -/
theorem test_decode_set :
    decode 0b00010001_0000000_1_00000011_00000100#32 = .command (.set 3#8 4#8 true) := by decide

theorem test_decode_vclr :
    decode 0b00011000_11_00_00_000000000000_000000#32 = .command (.vclr .v3) := by decide

theorem test_decode_vapp :
    decode 0b00011001_11_00_00_000000000000_100000#32 = .command (.vapp .v3 32#6) := by decide

/-- VXOR v3, v2, v1 (95_test_vectors.md T15). -/
theorem test_decode_vxor :
    decode 0b00011010_11_10_01_000000000000_000000#32 = .command (.vxor .v3 .v2 .v1) := by decide

theorem test_decode_vget :
    decode 0b00011011_00_11_00_000000000000_000000#32 = .command (.vget .v3) := by decide

theorem test_decode_vlen :
    decode 0b00011100_00_11_00_000000000000_000000#32 = .command (.vlen .v3) := by decide

/-- ILLEGAL words of 95_test_vectors.md T15, each with its reason. -/
theorem test_decode_illegal :
    decode 0x00000000#32 = .illegal .reservedOpcode ∧
    decode 0x01000001#32 = .illegal .mustBeZeroBits ∧
    decode 0x04400000#32 = .illegal .mustBeZeroBits ∧
    decode 0x10010A0A#32 = .illegal .mustBeZeroBits ∧
    decode 0x11020A0A#32 = .illegal .mustBeZeroBits ∧
    decode 0x19C00021#32 = .illegal .appendWidth ∧
    decode 0x19000040#32 = .illegal .mustBeZeroBits ∧
    decode 0xFF000000#32 = .illegal .reservedOpcode := by decide

/-- No word belongs to two rows of the opcode table: some bit of both masks tells any two apart. -/
theorem test_rows_disjoint :
    opTable.Pairwise fun a b => (a.pattern ^^^ b.pattern) &&& a.mask &&& b.mask ≠ 0#32 := by decide

/-- `cfg 1, 0, -1` = `wr CFG, 0x00000F01` (30_encoding.md R70), and `set 3, 4, 1` (R69). -/
theorem test_assembly :
    (Pseudo.cfg 1 0 (-1)).expand = [.wr .cfg 0x00000F01#32] ∧
    (Stmt.command (.set 3#8 4#8 true)).assemble = .write 0x00#6 32 0x11010304#32 := by decide

/-! ### The commands, one step each -/

/-- 95_test_vectors.md T13 row 12: CLEAR returns from an error and empties a cell. -/
theorem test_clear :
    next (exec .clear { cleared 11 0 with err := true, ecode := 7#4, grid := filled .dark })
      (fun t => t.err == false && t.ecode == 0#4 && t.grid.cell 3 4 == .empty) = true := by decide

/-- 95_test_vectors.md T13 rows 3 to 5: `get 4, 3` does not see cell (3, 4). -/
theorem test_get :
    next (exec (.get 3#8 4#8) { cleared 11 0 with grid := cleared17.setCell 3 4 .dark })
      (fun t => t.res == 1#32) = true ∧
    next (exec (.get 4#8 3#8) { cleared 11 0 with grid := cleared17.setCell 3 4 .dark })
      (fun t => t.res == 2#32) = true := by decide

/-- 95_test_vectors.md T13 rows 6 and 13. -/
theorem test_set :
    next (exec (.set 3#8 4#8 false) { cleared 11 0 with grid := cleared17.setCell 3 4 .dark })
      (fun t => t.grid.cell 3 4 == .light) = true ∧
    next (exec (.set 0#8 11#8 true) (cleared 11 0)) (fun t => t.err && t.ecode == 7#4) = true := by
  decide

theorem test_vclr :
    next (exec (.vclr .v2) { cleared 11 0 with v1 := [true], v2 := [true, false] })
      (fun t => t.v2 == [] && t.v1 == [true]) = true := by decide

/-- 95_test_vectors.md T14 rows 1 and 5: only the low bits of OPA are appended, the highest first. -/
theorem test_vapp :
    next (exec (.vapp .v0 4#6) { cleared 11 0 with v0 := bits 5 0b10011, opa := 0xFFFFFF00#32 })
      (fun t => t.v0 == bits 9 0b100110000) = true ∧
    next (exec (.vapp .v0 5#6) { cleared 11 0 with opa := 0x13#32 })
      (fun t => t.v0 == [true, false, false, true, true]) = true := by decide

/-- 95_test_vectors.md T14 rows 16 and 17: V0 holds VCAP bits. -/
theorem test_vapp_overflow :
    next (exec (.vapp .v0 1#6) { cleared 11 0 with v0 := List.replicate 512 true })
      (fun t => t.ecode == 11#4 && t.v0.length == 512) = true := by decide +kernel

/-- 95_test_vectors.md T1: `vxor v3, v1, v2` gives the format field of the source's worked example. -/
theorem test_vxor :
    next (exec (.vxor .v3 .v1 .v2)
        { cleared 11 0 with v1 := bits 15 0b000111101011001, v2 := bits 15 0b100010001000101 })
      (fun t => t.v3 == bits 15 0b100101100011100) = true := by decide

/-- 95_test_vectors.md T14 row 11: VD may be a source. -/
theorem test_vxor_in_place :
    next (exec (.vxor .v1 .v1 .v2) { cleared 11 0 with v1 := bits 3 0b111, v2 := bits 3 0b101 })
      (fun t => t.v1 == bits 3 0b010) = true := by decide

/-- 42_bitvector.md R113's example. -/
theorem test_vget :
    next (exec (.vget .v0) { cleared 11 0 with v0 := bits 5 0b10011, opa := 3#32 })
      (fun t => t.res == 1#32) = true ∧
    next (exec (.vget .v0) { cleared 11 0 with v0 := bits 5 0b10011, opa := 5#32 })
      (fun t => t.ecode == 7#4) = true := by decide

theorem test_vlen :
    next (exec (.vlen .v0) { cleared 11 0 with v0 := List.replicate 36 true })
      (fun t => t.res == 36#32) = true := by decide

/-- 95_test_vectors.md T10. -/
theorem test_msbpos :
    [0, 1, 2, 3, 0x537, 0x4445, 0x11021, 0x12345678, 0x80000000, 0xFFFFFFFF].map msbpos
      = [0, 1, 2, 2, 11, 15, 17, 29, 32, 32] := by decide

/-- 95_test_vectors.md T11. -/
theorem test_bchRemainder :
    [(0, 0x537), (1, 0x537), (3, 0x537), (0x1F, 0x537), (0xFFFFFFFF, 0x537), (5, 1), (13, 11),
      (1, 0x13), (0x80000000, 0x80000000), (0xFFFFFFFF, 0x80000001), (0xDEADBEEF, 0xFFFFFFFF),
      (0x12345678, 0x11021)].map (fun p => bchRemainder p.1 p.2)
      = [0, 0x137, 0x359, 0x3FF, 0x359, 0, 1, 3, 0, 0x7FFFFFFE, 0x10A92088, 0xB42C] := by decide

/-- 95_test_vectors.md T12: OPB = 0 raises InvalidPolynomial and leaves RES. -/
theorem test_bchrem_zero :
    next (exec .bchrem { cleared 11 0 with res := 9#32 })
      (fun t => t.ecode == 9#4 && t.res == 9#32) = true := by decide

/-- 95_test_vectors.md T1 and T4: `cfg 1, 0, 3`; `cfg 0, 3, 7` fails the mask check first. -/
theorem test_fmtbits :
    next (exec .fmtbits (cleared 11 0x00000301#32)) (fun t => t.fmt == 0x4B1C#15) = true ∧
    next (exec .fmtbits (cleared 11 0x00000730#32)) (fun t => t.ecode == 1#4) = true := by decide

/-- 95_test_vectors.md T3, five of its rows. -/
theorem test_format_fields :
    [0b00000, 0b00011, 0b01110, 0b10101, 0b11111].map (fun d => bitsValue (formatVector d))
      = [0x4445, 0x4B1C, 0x7C16, 0x1202, 0x3BBA] := by decide

/-- 95_test_vectors.md T21: EMBFMT without EMBPAT; row 8 is the field's upper half. -/
theorem test_embfmt :
    next (exec .embfmt (cleared 11 0x00000301#32)) (fun t =>
      row t.grid 11 8 == [2, 1, 0, 0, 1, 0, 1, 1, 0, 2, 2] &&
      (List.range 8).map (fun i => (cellCode (t.grid.cell 8 (i + 1))).toNat)
        == [0, 0, 1, 1, 1, 0, 0, 0]) = true := by decide

/-- 95_test_vectors.md T20, DIM = 11: rows 0, 2, 7 and 9. -/
theorem test_embpat :
    next (exec .embpat (cleared 11 0)) (fun t =>
      row t.grid 11 0 == [1, 1, 1, 1, 1, 1, 1, 0, 1, 0, 1] &&
      row t.grid 11 2 == [1, 0, 1, 1, 1, 0, 1, 0, 2, 2, 2] &&
      row t.grid 11 7 == [0, 0, 0, 0, 0, 0, 0, 0, 2, 2, 2] &&
      row t.grid 11 9 == [0, 2, 2, 2, 2, 2, 2, 2, 2, 2, 2]) = true := by decide

/-- 95_test_vectors.md T22: a separator cell already LIGHT still raises StructuralOverwrite. -/
theorem test_embpat_overwrite :
    next (exec .embpat { cleared 11 0 with grid := cleared17.setCell 7 7 .light })
      (fun t => t.err && t.ecode == 3#4) = true := by decide

/-- 95_test_vectors.md T34, DIM = 4 and DIM = 5 (its first pair and its last cells). -/
theorem test_visitOrder :
    visitOrder 4 = [(3, 3), (2, 3), (3, 2), (2, 2), (3, 1), (2, 1), (3, 0), (2, 0),
      (1, 0), (0, 0), (1, 1), (0, 1), (1, 2), (0, 2), (1, 3), (0, 3)] ∧
    (visitOrder 5).take 10 = [(4, 4), (3, 4), (4, 3), (3, 3), (4, 2), (3, 2), (4, 1), (3, 1),
      (4, 0), (3, 0)] ∧ (visitOrder 5).drop 18 = [(2, 4), (1, 4)] := by decide

/-- 95_test_vectors.md T32 on the traversal of T34, DIM = 3, mask -1: three payload bits, then padding;
column 0 stays EMPTY. -/
theorem test_embdata :
    next (exec (.embdata .v0) { cleared 3 0x00000F00#32 with v0 := [true, false, true] }) (fun t =>
      row t.grid 3 2 == [2, 0, 1] && row t.grid 3 1 == [2, 0, 1] && row t.grid 3 0 == [2, 0, 0] &&
      t.consumed == 3#32 && t.total == 3#32) = true := by decide

/-- 46_placer.md R156 on DIM = 2: four cells, five bits. -/
theorem test_embdata_overflow :
    next (exec (.embdata .v0) { cleared 2 0x00000F00#32 with v0 := List.replicate 5 true })
      (fun t => t.ecode == 5#4 && t.consumed == 4#32 && t.total == 5#32) = true := by decide

/-- 95_test_vectors.md T40, DIM = 9, `cfg 1, 0, 3`, V1 empty: accepted while ERR = 1; row 8 of the end
matrix is T21's. -/
theorem test_encode :
    next (exec (.encode .v1) { cleared 9 0x00000301#32 with err := true, ecode := 7#4 }) (fun t =>
      t.err == false && t.fmt == 0x4B1C#15 && row t.grid 9 8 == [1, 1, 0, 0, 1, 0, 1, 1, 0]) = true := by
  decide +kernel

/-- The ISO/IEC 18004 Micro QR masks, the reference of 93_implementation_defined.md I7: for tests
only. -/
def maskFnIso : MaskFn := fun p x y =>
  if p = 0 then y % 2 == 0
  else if p = 1 then (y / 2 + x / 3) % 2 == 0
  else if p = 2 then (y * x % 2 + y * x % 3) % 2 == 0
  else ((y + x) % 2 + y * x % 3) % 2 == 0

/-- 95_test_vectors.md T33, M = 2, rows 8 to 10: an empty payload, masked. -/
theorem test_encode_masked :
    (fun t => row t.grid 11 8 == [1, 1, 0, 0, 1, 1, 1, 0, 0, 1, 1] &&
      row t.grid 11 9 == [0, 0, 1, 0, 1, 0, 1, 0, 1, 0, 1] &&
      row t.grid 11 10 == [1, 0, 1, 1, 0, 1, 1, 0, 1, 1, 0] && t.fmt == 0x4E2B#15)
      (encodeBodyWith maskFnIso .v1 (cleared 11 0x00000201#32)).settle = true := by decide +kernel

/-! ### The register block, one step each -/

/-- 95_test_vectors.md T16: the error state ignores MSBPOS and accepts a write to OPA. -/
theorem test_error_state :
    next (step ({ cleared 11 0 with err := true, ecode := 7#4, res := 5#32, opa := 0x537#32
                                    host := [cmdWrite 0x08000000#32] }))
      (fun t => t.res == 5#32 && t.ecode == 7#4) = true ∧
    next (step ({ cleared 11 0 with err := true, ecode := 7#4
                                    host := [.write 0x10#6 32 9#32] }))
      (fun t => t.opa == 9#32) = true := by decide

/-- 95_test_vectors.md T12: STATUS reads 0x00000901 after InvalidPolynomial. -/
theorem test_read_status :
    next (step { cleared 11 0 with err := true, ecode := 9#4, host := [.read 0x04#6 32] })
      (fun t => t.observed == [0x00000901#32]) = true := by decide

/-- 95_test_vectors.md T4: `wr CFG, 0xFFFFF0C1` stores 1; P5: `wr DIM, 32` and `wr DIM, 18` are
ignored. -/
theorem test_writes :
    next (step { cleared 11 0 with host := [.write 0x08#6 32 0xFFFFF0C1#32] })
      (fun t => t.cfg == 1#32) = true ∧
    next (step { cleared 11 0 with host := [.write 0x0C#6 32 32#32] })
      (fun t => t.dim == 11#5 && t.grid == cleared17) = true ∧
    next (step { cleared 11 0 with host := [.write 0x0C#6 32 18#32] })
      (fun t => t.dim == 11#5) = true := by decide

/-- Another instance: NMAX = 31, VCAP = 3, and level M keys version 1's entry. -/
def otherParams : Params := { Params.standard with nmax := 31, vcap := 3, m1Ecl := 1 }

/-- 95_test_vectors.md T4, last line: with M1_ECL = 1, `cfg 1, 1, 3` gives 0x4B1C and `cfg 1, 0, 3` gives
ECODE 2. -/
theorem test_fmtbits_other_level :
    next (exec .fmtbits { State.resetWith otherParams with cfg := 0x00000311#32 })
      (fun t => t.fmt == 0x4B1C#15) = true ∧
    next (exec .fmtbits { State.resetWith otherParams with cfg := 0x00000301#32 })
      (fun t => t.ecode == 2#4) = true := by decide

/-- 00_scope.md R9 and R10 on the other instance: after reset DIM is 31, CLEAR empties cell (30, 30), a
write of 31 to DIM is legal, and the fourth bit of a vector raises VectorOverflow. -/
theorem test_other_sizes :
    next (exec .clear (State.resetWith otherParams))
      (fun t => t.dim == 31#5 && t.grid.cell 30 30 == .empty) = true ∧
    next (step { State.resetWith otherParams with dim := 9#5, host := [.write 0x0C#6 32 31#32] })
      (fun t => t.dim == 31#5) = true ∧
    next (exec (.vapp .v0 4#6) (State.resetWith otherParams)) (fun t => t.ecode == 11#4) = true ∧
    next (exec (.vapp .v0 3#6) (State.resetWith otherParams)) (fun t => t.v0.length == 3) = true := by
  decide

/-- A word written to CMD runs as the first instruction after reset. -/
theorem test_withFetchWord :
    next (step (State.reset.withFetchWord 32 0x08000000)) (fun t => t.res == 0#32 && t.host == [])
      = true := by decide

/-! ### Witnesses: states and operands that meet each statement's hypotheses -/

theorem witness_DecodeInvertsEncode : (Instr.vapp .v3 32#6).wellFormed = true := by decide

theorem witness_EncodeInvertsDecode : decode 0x1101FFFF#32 = .command (.set 255#8 255#8 true) := by
  decide

theorem witness_MustBeZeroBitsAreIllegal :
    (mustBeZero (fieldOpc 0x19020000#32) = some 0x003FFFC0#32 ∧
      0x19020000#32 &&& 0x003FFFC0#32 ≠ 0#32) ∧
    decode 0x19C00020#32 = .command (.vapp .v3 32#6) := by decide

theorem witness_ReservedOpcodesAreIllegal :
    fieldOpc 0x1D000000#32 ∉ [0x01#8, 0x02#8, 0x03#8, 0x04#8, 0x05#8, 0x08#8, 0x09#8, 0x0A#8, 0x10#8,
      0x11#8, 0x18#8, 0x19#8, 0x1A#8, 0x1B#8, 0x1C#8] := by decide

theorem witness_WideAppendIsIllegal : 33 ≤ (33#6).toNat ∧ 33 ≤ (63#6).toNat := by decide

/-- One state per clause: run, ignored, ILLEGAL with ERR = 1 and with ERR = 0. -/
theorem witness_CmdWriteDispatch :
    (∃ s : State, s.host = .write 0x00#6 32 0x01000000#32 :: [] ∧
      decode 0x01000000#32 = .command .clear ∧ s.err = true) ∧
    (∃ s : State, s.host = .write 0x00#6 32 0x08000000#32 :: [] ∧
      decode 0x08000000#32 = .command .msbpos ∧ s.err = false) ∧
    (∃ s : State, s.host = .write 0x00#6 32 0x08000000#32 :: [] ∧
      decode 0x08000000#32 = .command .msbpos ∧ s.err = true ∧
      Instr.msbpos ≠ .clear ∧ ∀ v, Instr.msbpos ≠ .encode v) ∧
    (∃ s : State, s.host = .write 0x00#6 32 0#32 :: [] ∧
      decode 0#32 = .illegal .reservedOpcode ∧ s.err = true) ∧
    ∃ s : State, s.host = .write 0x00#6 32 0#32 :: [] ∧
      decode 0#32 = .illegal .reservedOpcode ∧ s.err = false :=
  ⟨⟨{ cleared 11 0 with err := true, host := [cmdWrite 0x01000000#32] }, rfl, by decide, rfl⟩,
    ⟨{ cleared 11 0 with host := [cmdWrite 0x08000000#32] }, rfl, by decide, rfl⟩,
    ⟨{ cleared 11 0 with err := true, host := [cmdWrite 0x08000000#32] }, rfl, by decide, rfl,
      by decide, fun _ => Instr.noConfusion⟩,
    ⟨{ cleared 11 0 with err := true, host := [cmdWrite 0#32] }, rfl, by decide, rfl⟩,
    ⟨{ cleared 11 0 with host := [cmdWrite 0#32] }, rfl, by decide, rfl⟩⟩

theorem witness_WaitingBlockHoldsState : State.reset.host = [] := rfl

theorem witness_StepServesOneAccess :
    ∃ t, step { cleared 11 0 with host := [.write 0x10#6 32 9#32, .reset] } = .next t := ⟨_, rfl⟩

/-- A write and a read, at the last offset that has a register and at the first that has none. -/
theorem witness_RefusedAccesses :
    (∃ s : State, s.host = .write 0x24#6 32 0#32 :: []) ∧ ∃ s : State, s.host = .read 0x28#6 32 :: [] :=
  ⟨⟨{ cleared 11 0 with host := [.write 0x24#6 32 0#32] }, rfl⟩,
    ⟨{ cleared 11 0 with host := [.read 0x28#6 32] }, rfl⟩⟩

/-- The invariant holds of a cleared state with a legal side. -/
theorem cleared_inv : Inv (cleared 17 0x00000F37#32) where
  code_zero := by decide
  code_assigned := by decide
  cfg_reserved := by decide
  dim_legal := by decide
  params_legal := by decide
  storage := Grid.cleared_fits 17
  vec_length := by intro r; cases r <;> decide
  counts := by decide

theorem witness_PermittedAccessesNeverStop :
    ∃ s : State, Inv s ∧ s.host = [cmdWrite 0x05300000#32, .read 0x24#6 32, .reset] ∧
      ∀ e ∈ s.host, e.permitted = true :=
  ⟨(cleared 17 0x00000F37#32).setHost [cmdWrite 0x05300000#32, .read 0x24#6 32, .reset],
    { code_zero := by decide
      code_assigned := by decide
      cfg_reserved := by decide
      dim_legal := by decide
      params_legal := by decide
      storage := Grid.cleared_fits 17
      vec_length := by intro r; cases r <;> decide
      counts := by decide }, rfl, by decide⟩

/-- STATUS with the greatest assigned code, and TOTAL at the last offset. -/
theorem witness_HostReadsReturnRegisters :
    (∃ s : State, s.host = .read 0x04#6 32 :: [] ∧ s.ecode.toNat < 12 ∧
      0x00000B01#32 = (s.ecode.setWidth 32 <<< 8) ||| (BitVec.ofBool s.err).setWidth 32) ∧
    (∃ s : State, s.host = .read 0x00#6 32 :: []) ∧ (∃ s : State, s.host = .read 0x08#6 32 :: []) ∧
    (∃ s : State, s.host = .read 0x0C#6 32 :: []) ∧ (∃ s : State, s.host = .read 0x10#6 32 :: []) ∧
    (∃ s : State, s.host = .read 0x14#6 32 :: []) ∧ (∃ s : State, s.host = .read 0x18#6 32 :: []) ∧
    (∃ s : State, s.host = .read 0x1C#6 32 :: []) ∧ (∃ s : State, s.host = .read 0x20#6 32 :: []) ∧
    ∃ s : State, s.host = .read 0x24#6 32 :: [] :=
  ⟨⟨{ cleared 11 0 with err := true, ecode := 11#4, host := [.read 0x04#6 32] }, rfl, by decide,
      by decide⟩,
    ⟨{ cleared 11 0 with host := [.read 0x00#6 32] }, rfl⟩,
    ⟨{ cleared 11 0 with host := [.read 0x08#6 32] }, rfl⟩,
    ⟨{ cleared 11 0 with host := [.read 0x0C#6 32] }, rfl⟩,
    ⟨{ cleared 11 0 with host := [.read 0x10#6 32] }, rfl⟩,
    ⟨{ cleared 11 0 with host := [.read 0x14#6 32] }, rfl⟩,
    ⟨{ cleared 11 0 with host := [.read 0x18#6 32] }, rfl⟩,
    ⟨{ cleared 11 0 with host := [.read 0x1C#6 32] }, rfl⟩,
    ⟨{ cleared 11 0 with host := [.read 0x20#6 32] }, rfl⟩,
    ⟨{ cleared 11 0 with host := [.read 0x24#6 32] }, rfl⟩⟩

theorem witness_ReservedErrorCodeFaults :
    (∃ s : State, s.host = .read 0x04#6 32 :: [] ∧ s.ecode.toNat = 12) ∧
    ∃ s : State, s.host = .read 0x04#6 32 :: [] ∧ s.ecode.toNat = 11 :=
  ⟨⟨{ cleared 11 0 with ecode := 12#4, host := [.read 0x04#6 32] }, rfl, by decide⟩,
    ⟨{ cleared 11 0 with ecode := 11#4, host := [.read 0x04#6 32] }, rfl, by decide⟩⟩

theorem witness_CfgRegister :
    (∃ s : State, s.host = .write 0x08#6 32 0xFFFFFFFF#32 :: []) ∧
    ∃ s t : State, exec .msbpos s = .next t :=
  ⟨⟨{ cleared 11 0 with host := [.write 0x08#6 32 0xFFFFFFFF#32] }, rfl⟩, ⟨cleared 11 0, _, rfl⟩⟩

/-- The least and the greatest legal side, and the two nearest illegal ones. -/
theorem witness_DimRegister :
    (1 ≤ (1#32).toNat % 32 ∧ (1#32).toNat % 32 ≤ State.reset.params.nmax) ∧
    (1 ≤ (17#32).toNat % 32 ∧ (17#32).toNat % 32 ≤ State.reset.params.nmax) ∧
    ¬(1 ≤ (0#32).toNat % 32 ∧ (0#32).toNat % 32 ≤ State.reset.params.nmax) ∧
    ¬(1 ≤ (18#32).toNat % 32 ∧ (18#32).toNat % 32 ≤ State.reset.params.nmax) ∧
    (∀ w : Word, ∃ s : State, s.host = .write 0x0C#6 32 w :: []) ∧
    (∃ s : State, s.host = .read 0x0C#6 32 :: []) ∧
    ∃ s t : State, exec .embpat s = .next t :=
  ⟨by decide, by decide, by decide, by decide,
    fun w => ⟨{ cleared 11 0 with host := [.write 0x0C#6 32 w] }, rfl⟩,
    ⟨{ cleared 11 0 with host := [.read 0x0C#6 32] }, rfl⟩, ⟨cleared 11 0, _, rfl⟩⟩

theorem witness_OperandRegisters :
    (∃ s : State, s.host = .write 0x10#6 32 0xFFFFFFFF#32 :: []) ∧
    (∃ s : State, s.host = .write 0x14#6 32 0xFFFFFFFF#32 :: []) ∧
    ∃ s t : State, exec .bchrem s = .next t :=
  ⟨⟨{ cleared 11 0 with host := [.write 0x10#6 32 0xFFFFFFFF#32] }, rfl⟩,
    ⟨{ cleared 11 0 with host := [.write 0x14#6 32 0xFFFFFFFF#32] }, rfl⟩, ⟨cleared 11 0, _, rfl⟩⟩

/-- MSBPOS changes RES; a BCHREM with OPB = 0 raises; a write to RES. -/
theorem witness_ResultRegister :
    (∃ s t : State, exec .msbpos s = .next t ∧ t.res ≠ s.res) ∧
    (∃ s t : State, s.err = false ∧ exec .bchrem s = .next t ∧ t.err = true) ∧
    ∃ s : State, s.host = .write 0x18#6 32 1#32 :: [] :=
  ⟨⟨{ cleared 11 0 with opa := 1#32 }, _, rfl, by decide⟩, ⟨cleared 11 0, _, rfl, rfl, by decide⟩,
    ⟨{ cleared 11 0 with host := [.write 0x18#6 32 1#32] }, rfl⟩⟩

theorem witness_FormatRegister :
    (∃ s t : State, exec .fmtbits s = .next t ∧ t.fmt ≠ s.fmt) ∧
    (∃ s t : State, s.err = false ∧ exec .embfmt s = .next t ∧ t.err = true) ∧
    ∃ s : State, s.host = .write 0x1C#6 32 1#32 :: [] :=
  ⟨⟨cleared 11 0x00000301#32, _, rfl, by decide⟩, ⟨cleared 8 0x00000301#32, _, rfl, rfl, by decide⟩,
    ⟨{ cleared 11 0 with host := [.write 0x1C#6 32 1#32] }, rfl⟩⟩

/-- EMBDATA changes the counts; a GET raises another error than DataOverflow. -/
theorem witness_CountRegisters :
    (∃ s t : State, exec (.embdata .v0) s = .next t ∧ t.total ≠ s.total) ∧
    (∃ s t : State, s.err = false ∧ exec (.get 11#8 0#8) s = .next t ∧ t.err = true ∧ t.ecode ≠ 5#4) ∧
    (∃ s : State, s.host = .write 0x20#6 32 1#32 :: []) ∧
    ∃ s : State, s.host = .write 0x24#6 32 1#32 :: [] :=
  ⟨⟨{ cleared 2 0x00000F00#32 with v0 := [true] }, _, rfl, by decide⟩,
    ⟨cleared 11 0, _, rfl, rfl, by decide, by decide⟩,
    ⟨{ cleared 11 0 with host := [.write 0x20#6 32 1#32] }, rfl⟩,
    ⟨{ cleared 11 0 with host := [.write 0x24#6 32 1#32] }, rfl⟩⟩

/-- CLEAR leaves the error state; an ENCODE that fails changes the code of an error already set. -/
theorem witness_ErrorIsSticky :
    (∃ s : State, s.host = .write 0x04#6 32 1#32 :: []) ∧
    (∃ s t : State, s.err = true ∧ step s = .next t ∧ t.err = false) ∧
    ∃ s t : State, s.err = true ∧ step s = .next t ∧ t.ecode ≠ s.ecode :=
  ⟨⟨{ cleared 11 0 with host := [.write 0x04#6 32 1#32] }, rfl⟩,
    ⟨{ cleared 11 0 with err := true, ecode := 7#4, host := [cmdWrite 0x01000000#32] }, _, rfl, rfl,
      by decide⟩,
    ⟨{ cleared 7 0 with err := true, ecode := 5#4, host := [cmdWrite 0x05000000#32] }, _, rfl, rfl,
      by decide⟩⟩

theorem witness_ResetValues :
    ∃ (s t : State) (rest : List HostEvent), s.host = .reset :: rest ∧ step s = .next t :=
  ⟨{ cleared 11 0 with err := true, ecode := 7#4, host := [.reset] }, _, [], rfl, rfl⟩

theorem witness_ResetMeetsInv : otherParams.legal ∧ Params.standard.legal := by decide

theorem witness_ParametersAreFixed :
    ∃ t, step { State.resetWith otherParams with host := [.reset] } = .next t := ⟨_, rfl⟩

/-- An instance whose rows differ from the default: a row's own pair, and a pair with no row. -/
theorem witness_SymbolTableEntries :
    ∃ p : Params, p.legal ∧ p.symtab ≠ Params.standard.symtab ∧ (⟨2, 3, 7⟩ : SymtabRow) ∈ p.symtab ∧
      symtab p 2 3 = some 7 ∧ symtab p 2 0 = none :=
  ⟨⟨9, 1, 2, [⟨2, 3, 7⟩, ⟨4, 0, 1⟩, ⟨4, 1, 2⟩, ⟨4, 3, 3⟩]⟩, by decide, by decide, by decide, by decide,
    by decide⟩

theorem witness_StepKeepsInv : ∃ t, Inv (cleared 17 0x00000F37#32) ∧
    step (cleared 17 0x00000F37#32) = .next t := ⟨_, cleared_inv, rfl⟩

/-- The last active cell, and the first coordinates outside, of the largest matrix. -/
theorem witness_GetReadsOneCell :
    ((16#8).toNat < (cleared 17 0).dim.toNat) ∧ (cleared 17 0).dim.toNat ≤ (17#8).toNat := by decide

theorem witness_SetWritesOneCell :
    (16#8).toNat < (cleared 17 0).dim.toNat ∧
    (cleared 17 0).dim.toNat ≤ (17#8).toNat := by decide

theorem witness_NoCommandWritesInvalid :
    ∃ s t : State, exec .embpat s = .next t ∧ t.grid.cell 16 16 = .invalid ∧
      16 < s.params.nmax.val :=
  ⟨{ cleared 11 0 with grid := filled .invalid }, _, rfl, by decide, by decide⟩

theorem witness_VclrEmptiesOneVector : VReg.v1 ≠ VReg.v0 := by decide

/-- A result of exactly VCAP bits, and of one more; the first and the last of 32 appended bits. -/
theorem witness_VappAppendsLowBits :
    (32#6).toNat ≤ 32 ∧
    (∃ s : State, (s.vec .v0).length + (32#6).toNat ≤ s.params.vcap ∧ 479 < (s.vec .v0).length ∧
      0 < (32#6).toNat ∧ 31 < (32#6).toNat) ∧
    ∃ s : State, s.params.vcap < (s.vec .v0).length + (1#6).toNat :=
  ⟨by decide +kernel, ⟨{ cleared 11 0 with v0 := List.replicate 480 true }, by decide +kernel, by decide +kernel, by decide +kernel,
      by decide⟩,
    ⟨{ cleared 11 0 with v0 := List.replicate 512 true }, by decide +kernel⟩⟩

theorem witness_VxorCombinesVectors :
    (∃ s : State, (s.vec .v1).length = (s.vec .v2).length ∧
      (s.vec .v1)[2]? = some true ∧ (s.vec .v2)[2]? = some false) ∧
    ∃ s : State, (s.vec .v1).length ≠ (s.vec .v2).length :=
  ⟨⟨{ cleared 11 0 with v1 := [true, true, true], v2 := [false, true, false] }, by decide, by decide,
      by decide⟩,
    ⟨{ cleared 11 0 with v1 := [true] }, by decide⟩⟩

/-- The last position, and the first beyond the end. -/
theorem witness_VgetReadsOneBit :
    (∃ s : State, (s.vec .v0)[s.opa.toNat]? = some true) ∧
    ∃ s : State, (s.vec .v0).length ≤ s.opa.toNat :=
  ⟨⟨{ cleared 11 0 with v0 := [false, true], opa := 1#32 }, by decide⟩,
    ⟨{ cleared 11 0 with v0 := [false, true], opa := 2#32 }, by decide⟩⟩

theorem witness_VlenReadsLength : ∃ s : State, (s.vec .v0).length = s.params.vcap :=
  ⟨{ cleared 11 0 with v0 := List.replicate 512 true }, by decide +kernel⟩

theorem witness_VectorsReadAreNotChanged :
    ∃ s t : State, exec (.vclr .v0) s = .next t ∧ t.vec .v0 ≠ s.vec .v0 :=
  ⟨{ cleared 11 0 with v0 := [true] }, _, rfl, by decide⟩

/-- A cleared matrix of any legal side meets EMBPAT's conditions; the cells of each clause exist:
dark and light finder cells, a timing cell, and cells that are neither. -/
theorem witness_EmbpatEmbedsPatterns :
    (8 ≤ (cleared 9 0).dim.toNat ∧
      (∀ x y, inFinderRegion x y → (cleared 9 0).grid.cell x y = .empty) ∧
      ∀ x y, inTiming (cleared 9 0).dim.toNat x y → (cleared 9 0).grid.cell x y ≠ .invalid) ∧
    finderDark 6 6 ∧ ¬finderDark 5 5 ∧ inTiming 9 8 0 ∧ inTiming 9 0 8 ∧
    ¬inFinderRegion 8 8 ∧ ¬inTiming 9 8 8 := by
  have hempty : ∀ x y, x < 17 → y < 17 → (cleared 9 0).grid.cell x y = .empty :=
    fun x y hx hy => Grid.cell_cleared (by decide) hx hy
  refine ⟨⟨by decide, fun x y h => ?_, fun x y h => ?_⟩, ?_⟩
  · exact hempty x y (Nat.lt_of_le_of_lt h.1 (by decide)) (Nat.lt_of_le_of_lt h.2 (by decide))
  · have hd : (cleared 9 0).dim.toNat = 9 := rfl
    rw [hd] at h
    unfold inTiming at h
    rw [hempty x y (by omega) (by omega)]
    decide
  · simp [finderDark, inTiming, inFinderRegion]

/-- A timing cell that the host set beforehand. -/
theorem witness_EmbpatEmbedsPatterns_claimed :
    inTiming 9 8 0 ∧ (cleared17.setCell 8 0 .light).cell 8 0 ≠ .empty :=
  ⟨.inl ⟨rfl, by decide, by decide⟩, by decide⟩

/-- DIM = 7; a separator cell already written; an INVALID timing cell with the finder region EMPTY. -/
theorem witness_EmbpatErrorOrder :
    (cleared 7 0).dim.toNat < 8 ∧
    (∃ s : State, 8 ≤ s.dim.toNat ∧
      ∃ x y, inFinderRegion x y ∧ s.grid.cell x y ≠ .empty) ∧
    ∃ s : State, 8 ≤ s.dim.toNat ∧
      (∀ x y, inFinderRegion x y → s.grid.cell x y = .empty) ∧
      ∃ x y, inTiming s.dim.toNat x y ∧ s.grid.cell x y = .invalid := by
  refine ⟨by decide, ⟨{ cleared 8 0 with grid := cleared17.setCell 7 7 .light }, by decide,
      7, 7, ⟨by decide, by decide⟩, by decide⟩,
    ⟨{ cleared 9 0 with grid := cleared17.setCell 8 0 .invalid }, by decide,
      fun x y h => ?_, 8, 0, .inl ⟨rfl, by decide, by decide⟩, by decide⟩⟩
  obtain ⟨hx, hy⟩ := h
  rw [Grid.cell_setCell_ne _ _ (by omega)]
  exact Grid.cell_cleared (by decide) (Nat.lt_of_le_of_lt hx (by decide))
    (Nat.lt_of_le_of_lt hy (by decide))

theorem witness_EmbpatReadsOnlyDimAndCells :
    ∃ s s' t t' : State, s.dim = s'.dim ∧ s.grid = s'.grid ∧ s.err = false ∧ s'.err = false ∧
      s.ecode = s'.ecode ∧ s.cfg ≠ s'.cfg ∧ exec .embpat s = .next t ∧ exec .embpat s' = .next t' :=
  ⟨cleared 11 0, cleared 11 0x00000324#32, _, _, rfl, rfl, rfl, rfl, rfl, by decide, rfl, rfl⟩

theorem witness_MalformedPatternOnlyIfSubstituted :
    (∃ s t : State, exec .msbpos s = .next t ∧ t.ecode = 4#4) ∧
    8 ≤ (cleared 8 0).dim.toNat ∧ ([[true]] : List (List Bool)).length ≠ 7 ∧
    ∃ row ∈ List.replicate 7 [true], row.length ≠ 7 :=
  ⟨⟨{ cleared 8 0 with err := true, ecode := 4#4 }, _, rfl, rfl⟩, by decide, by decide,
    ⟨[true], by decide, by decide⟩⟩

/-- OPA = 0, and OPA with only bit 31 set. -/
theorem witness_MsbposFindsHighestBit :
    (cleared 11 0).opa = 0#32 ∧ { cleared 11 0 with opa := 0x80000000#32 }.opa ≠ 0#32 := by decide

theorem witness_BchRemainderIsPolynomialRemainder :
    0x537 ≠ 0 ∧ msbpos 0x537 ≤ msbpos 0x537 ∧ msbpos 3 ≤ 2 := by decide

/-- OPB = 1, and OPB = 0. -/
theorem witness_BchremWritesRemainder :
    { cleared 11 0 with opb := 1#32 }.opb ≠ 0#32 ∧ (cleared 11 0).opb = 0#32 := by decide

/-- The first and the last entry of the table. -/
theorem witness_formatReady :
    (cleared 9 0x00000301#32).formatReady 3 0 ∧ (cleared 9 0x00000024#32).formatReady 0 7 :=
  ⟨⟨by decide, by decide⟩, ⟨by decide, by decide⟩⟩

/-- The sentinel and maskv = 4 are outside the set; `cfg 4, 3, 3` is legal but undefined; DIM = 8. -/
theorem witness_FormatErrorOrder :
    ¬(0 ≤ cfgMaskv 0x00000F01#32 ∧ cfgMaskv 0x00000F01#32 ≤ 3) ∧
    ¬(0 ≤ cfgMaskv 0x00000401#32 ∧ cfgMaskv 0x00000401#32 ≤ 3) ∧
    (0 ≤ cfgMaskv 0x00000334#32 ∧ cfgMaskv 0x00000334#32 ≤ 3 ∧
      symtab Params.standard (cfgVersion 0x00000334#32) (cfgEcl 0x00000334#32) = none) ∧
    (cleared 8 0x00000301#32).formatReady 3 0 ∧ (cleared 8 0x00000301#32).dim.toNat < 9 :=
  ⟨by decide, by decide, by decide, ⟨by decide, by decide⟩, by decide⟩

theorem witness_FormatFieldRoundTrip :
    ∃ s t : State, s.formatReady 3 0 ∧ exec .fmtbits s = .next t :=
  ⟨cleared 9 0x00000301#32, _, ⟨by decide, by decide⟩, rfl⟩

/-- The least side EMBFMT takes. -/
theorem witness_EmbfmtWritesFormatCells :
    (cleared 9 0x00000301#32).formatReady 3 0 ∧ 9 ≤ (cleared 9 0x00000301#32).dim.toNat :=
  ⟨⟨by decide, by decide⟩, by decide⟩

theorem witness_FormatLengthAlwaysFifteen :
    ∃ s t : State, exec .fmtbits s = .next t ∧ t.ecode = 6#4 :=
  ⟨{ cleared 9 0x00000301#32 with err := true, ecode := 6#4 }, _, rfl, by decide⟩

/-- A payload that fills the cells exactly, with masking off and with pattern 3; the last of the cells
it fills. -/
theorem witness_EmbdataPlacesPayload :
    (-1 ≤ cfgMaskv 0x00000F00#32 ∧ cfgMaskv 0x00000F00#32 ≤ 3) ∧
    (-1 ≤ cfgMaskv 0x00000300#32 ∧ cfgMaskv 0x00000300#32 ≤ 3) ∧
    ∀ cfg : Word, ∃ s : State, s.cfg = cfg ∧
      (s.vec .v0).length = (placerCells s.dim.toNat s.grid).length ∧
      (placerCells s.dim.toNat s.grid)[3]? = some (0, 0) :=
  ⟨by decide, by decide, fun cfg => ⟨{ cleared 2 cfg with v0 := List.replicate 4 true }, rfl,
    (by decide : 4 = (placerCells 2 cleared17).length),
    (by decide : (placerCells 2 cleared17)[3]? = some (0, 0))⟩⟩

/-- One bit more than the cells. -/
theorem witness_EmbdataOverflowReportsCounts :
    ∃ s : State, -1 ≤ cfgMaskv s.cfg ∧ cfgMaskv s.cfg ≤ 3 ∧
      (placerCells s.dim.toNat s.grid).length + 1 = (s.vec .v0).length ∧
      (0, 0) ∈ placerCells s.dim.toNat s.grid ∧ (2, 0) ∉ placerCells s.dim.toNat s.grid :=
  ⟨{ cleared 2 0x00000F00#32 with v0 := List.replicate 5 true }, by decide, by decide,
    by decide, by decide, by decide⟩

/-- maskv = 4 and maskv = -2. -/
theorem witness_EmbdataChecksMaskFirst :
    ¬(-1 ≤ cfgMaskv 0x00000401#32 ∧ cfgMaskv 0x00000401#32 ≤ 3) ∧
    ¬(-1 ≤ cfgMaskv 0x00000E01#32 ∧ cfgMaskv 0x00000E01#32 ≤ 3) := by decide

/-- The first and the last of the cells it writes. -/
theorem witness_SentinelPlacesBitsUnmodified :
    cfgMaskv (cleared 2 0x00000F01#32).cfg = -1 ∧
    (placerCells 2 cleared17)[0]? = some (1, 1) ∧ (placerCells 2 cleared17)[3]? = some (0, 0) := by
  decide

theorem witness_CapacityAfterPatterns :
    ∃ s a b c : State, s.formatReady 3 0 ∧ 9 ≤ s.dim.toNat ∧ s.dim.toNat ≤ s.params.nmax ∧
      exec .clear s = .next a ∧ exec .embpat a = .next b ∧ exec .embfmt b = .next c :=
  ⟨cleared 9 0x00000301#32, _, _, _, ⟨by decide, by decide⟩, by decide, by decide, rfl, rfl, rfl⟩

/-- The data cells of DIM = 10: 17 of them (46_placer.md R157), the first and the last in the visiting
order; and an inactive cell. -/
theorem witness_EncodeBuildsSymbol_cells :
    (dataCells 10).length = 17 ∧ (dataCells 10)[0]? = some (9, 9) ∧
    (dataCells 10)[16]? = some (1, 9) ∧ dataCells 9 = [] ∧
    16 < Params.standard.nmax.val ∧ ¬(16 < 10 ∧ 16 < 10) := by decide

/-- DIM = 9 leaves no data cell; DIM = 10 holds 17 bits (46_placer.md R157), and not 18. -/
theorem witness_EncodeBuildsSymbol :
    (∃ s : State, s.formatReady 3 0 ∧ 9 ≤ s.dim.toNat ∧ s.dim.toNat ≤ s.params.nmax ∧
      (s.vec .v0).length + 79 + 2 * (s.dim.toNat - 8) = s.dim.toNat * s.dim.toNat) ∧
    ∃ s : State, s.formatReady 3 0 ∧ 9 ≤ s.dim.toNat ∧ s.dim.toNat ≤ s.params.nmax ∧
      (s.vec .v0).length = 17 ∧
      (s.vec .v0).length + 79 + 2 * (s.dim.toNat - 8) = s.dim.toNat * s.dim.toNat :=
  ⟨⟨cleared 9 0x00000301#32, ⟨by decide, by decide⟩, by decide, by decide, by decide⟩,
    ⟨{ cleared 10 0x00000301#32 with v0 := List.replicate 17 true }, ⟨by decide, by decide⟩,
      by decide, by decide, by decide, by decide⟩⟩

theorem witness_EncodeLeavesNoEmptyCell :
    ∃ s t : State, s.dim.toNat ≤ s.params.nmax ∧ exec (.encode .v0) s = .next t ∧ t.err = false ∧
      8 < s.dim.toNat :=
  ⟨cleared 9 0x00000301#32, _, by decide +kernel, rfl, by decide +kernel, by decide +kernel⟩

theorem witness_EncodeStageErrors :
    (cleared 7 0).dim.toNat < 8 ∧
    (8 ≤ (cleared 8 0x00000F01#32).dim.toNat ∧ (cleared 8 0x00000F01#32).dim.toNat ≤ Params.standard.nmax ∧
      ¬(0 ≤ cfgMaskv 0x00000F01#32 ∧ cfgMaskv 0x00000F01#32 ≤ 3)) ∧
    (0 ≤ cfgMaskv 0x00000000#32 ∧ cfgMaskv 0x00000000#32 ≤ 3 ∧
      symtab Params.standard (cfgVersion 0x00000000#32) (cfgEcl 0x00000000#32) = none) ∧
    (cleared 8 0x00000001#32).formatReady 0 0 ∧ (cleared 8 0x00000001#32).dim.toNat = 8 ∧
    (cleared 8 0x00000001#32).dim.toNat ≤ (cleared 8 0x00000001#32).params.nmax :=
  ⟨by decide, by decide, by decide, ⟨by decide, by decide⟩, by decide, by decide⟩

theorem witness_EncodeOverflow :
    ∃ s : State, s.formatReady 3 0 ∧ 9 ≤ s.dim.toNat ∧ s.dim.toNat ≤ s.params.nmax ∧
      s.dim.toNat * s.dim.toNat < (s.vec .v0).length + 79 + 2 * (s.dim.toNat - 8) :=
  ⟨{ cleared 9 0x00000301#32 with v0 := [true] }, ⟨by decide, by decide⟩, by decide, by decide,
    by decide⟩

theorem witness_PartialMatrixIsUnobservable :
    ∃ s : State, s.err = true ∧ s.host = [cmdWrite 0x10000000#32, cmdWrite 0x01000000#32] :=
  ⟨{ cleared 11 0 with err := true, ecode := 3#4
                       host := [cmdWrite 0x10000000#32, cmdWrite 0x01000000#32] }, rfl, rfl⟩

end Sys2Proof.Machine.Tests
end

/-! The registers CFG, DIM and RES (10_state.md R26, R27, R36). One lemma says what a command can write:
RES, one vector register, or what it makes of the symbol. The statements about which command writes which
register follow from it. -/

namespace Sys2Proof.Machine

/-! ### What a command can write -/

/-- The states s and t differ at most in the symbol's cells, its results FMT, CONSUMED and TOTAL, and
STATUS. -/
def State.sameButSymbol (s t : State) : Prop :=
  ∃ err ecode grid fmt consumed total, t = { s with
    err := err, ecode := ecode, grid := grid, fmt := fmt, consumed := consumed, total := total }

theorem State.sameButSymbol_refl (s : State) : s.sameButSymbol s := ⟨_, _, _, _, _, _, rfl⟩

theorem State.sameButSymbol_setGrid (s : State) (g : Grid) : s.sameButSymbol (s.setGrid g) :=
  ⟨_, _, _, _, _, _, rfl⟩

theorem State.sameButSymbol_raise (s : State) (e : ErrorKind) : s.sameButSymbol (s.raise e) :=
  ⟨_, _, _, _, _, _, rfl⟩

theorem State.sameButSymbol_clearMatrix (s : State) : s.sameButSymbol s.clearMatrix :=
  ⟨_, _, _, _, _, _, rfl⟩

theorem State.sameButSymbol_trans {s t u : State} (hst : s.sameButSymbol t) (htu : t.sameButSymbol u) :
    s.sameButSymbol u := by
  obtain ⟨_, _, _, _, _, _, rfl⟩ := hst
  obtain ⟨_, _, _, _, _, _, rfl⟩ := htu
  exact ⟨_, _, _, _, _, _, rfl⟩

/-- Recording an error changes STATUS alone. -/
theorem Ending.settle_sameButSymbol {s : State} {r : Ending State} (h : s.sameButSymbol r.last) :
    s.sameButSymbol r.settle := by
  cases r with
  | done a => exact h
  | failed e a => exact State.sameButSymbol_trans h (a.sameButSymbol_raise e)

theorem embpatStage_sameButSymbol (s : State) : s.sameButSymbol (embpatStage s).last := by
  rcases embpatStage_cases s with ⟨g, h⟩ | h | ⟨g, h⟩ | ⟨g, h⟩ <;> rw [h]
  · exact s.sameButSymbol_setGrid g
  · exact s.sameButSymbol_refl
  · exact s.sameButSymbol_setGrid g
  · exact s.sameButSymbol_setGrid g

theorem embfmtStage_sameButSymbol (s : State) : s.sameButSymbol (embfmtStage s).last := by
  rcases embfmtStage_cases s with ⟨f, -, -, h⟩ | ⟨e, -, h⟩ | ⟨-, -, h⟩ <;> rw [h]
  · exact ⟨_, _, _, _, _, _, rfl⟩
  · exact s.sameButSymbol_refl
  · exact s.sameButSymbol_refl

theorem embdataStageWith_sameButSymbol (fn : MaskFn) (vs1 : VReg) (s : State) :
    s.sameButSymbol (embdataStageWith fn vs1 s).last := by
  rcases embdataStageWith_cases fn vs1 s with h | ⟨g, n, ⟨-, h⟩ | ⟨-, h⟩⟩ <;> rw [h]
  · exact s.sameButSymbol_refl
  · exact ⟨_, _, _, _, _, _, rfl⟩
  · exact ⟨_, _, _, _, _, _, rfl⟩

/-- ENCODE writes what its four stages write (47_encode.md R165). -/
theorem encodeBodyWith_sameButSymbol (fn : MaskFn) (vs1 : VReg) (s : State) :
    s.sameButSymbol (encodeBodyWith fn vs1 s).last :=
  Ending.last_andThen (P := s.sameButSymbol)
    (Ending.last_andThen (P := s.sameButSymbol)
      (State.sameButSymbol_trans s.sameButSymbol_clearMatrix (embpatStage_sameButSymbol s.clearMatrix))
      fun t ht => State.sameButSymbol_trans ht (embfmtStage_sameButSymbol t))
    fun t ht => State.sameButSymbol_trans ht (embdataStageWith_sameButSymbol fn vs1 t)

theorem fmtbitsBody_sameButSymbol (s : State) : s.sameButSymbol (fmtbitsBody s).last := by
  rcases fmtbitsBody_cases s with ⟨f, -, h⟩ | ⟨e, -, h⟩ <;> rw [h]
  · exact ⟨_, _, _, _, _, _, rfl⟩
  · exact s.sameButSymbol_refl

theorem setBody_sameButSymbol (x y : BitVec 8) (b : Bool) (s : State) :
    s.sameButSymbol (setBody x y b s).last := by
  rw [setBody]
  split
  · exact s.sameButSymbol_refl
  · exact s.sameButSymbol_setGrid _

/-- The five commands whose result goes to RES (10_state.md R36). -/
def writesRes (i : Instr) : Prop :=
  i = .msbpos ∨ i = .bchrem ∨ (∃ x y, i = .get x y) ∨ (∃ v, i = .vget v) ∨ ∃ v, i = .vlen v

/-- What a command can write: RES, if it is one of the five and does not raise; one vector register; or
the symbol, the symbol's results and STATUS. -/
theorem exec_writes {i : Instr} {s t : State} (h : exec i s = .next t) :
    (writesRes i ∧ ∃ w, t = s.setRes w) ∨ (∃ vd bits, t = s.setVec vd bits) ∨ s.sameButSymbol t := by
  rw [exec_eq_next_iff] at h
  subst h
  cases i with
  | clear => exact .inr (.inr s.sameButSymbol_clearMatrix)
  | embpat => exact .inr (.inr (Ending.settle_sameButSymbol (embpatStage_sameButSymbol s)))
  | embfmt => exact .inr (.inr (Ending.settle_sameButSymbol (embfmtStage_sameButSymbol s)))
  | embdata vs1 =>
    exact .inr (.inr (Ending.settle_sameButSymbol (embdataStageWith_sameButSymbol _ vs1 s)))
  | encode vs1 =>
    exact .inr (.inr (Ending.settle_sameButSymbol (encodeBodyWith_sameButSymbol _ vs1 s)))
  | fmtbits => exact .inr (.inr (Ending.settle_sameButSymbol (fmtbitsBody_sameButSymbol s)))
  | set x y b => exact .inr (.inr (Ending.settle_sameButSymbol (setBody_sameButSymbol x y b s)))
  | msbpos => exact .inl ⟨by simp [writesRes], _, rfl⟩
  | vlen vs1 => exact .inl ⟨by simp [writesRes], _, rfl⟩
  | bchrem =>
    rw [bodyOf, bchremBody]
    split
    · exact .inr (.inr (s.sameButSymbol_raise _))
    · exact .inl ⟨by simp [writesRes], _, rfl⟩
  | get x y =>
    rw [bodyOf, getBody]
    split
    · exact .inr (.inr (s.sameButSymbol_raise _))
    · exact .inl ⟨by simp [writesRes], _, rfl⟩
  | vget vs1 =>
    rw [bodyOf, vgetBody]
    split
    · exact .inr (.inr (s.sameButSymbol_raise _))
    · exact .inl ⟨by simp [writesRes], _, rfl⟩
  | vclr vd => exact .inr (.inl ⟨vd, _, rfl⟩)
  | vapp vd nb =>
    rw [bodyOf, vappBody]
    split
    · exact .inr (.inr (s.sameButSymbol_raise _))
    · exact .inr (.inl ⟨vd, _, rfl⟩)
  | vxor vd vs1 vs2 =>
    rw [bodyOf, vxorBody]
    split
    · exact .inr (.inr (s.sameButSymbol_raise _))
    · exact .inr (.inl ⟨vd, _, rfl⟩)

/-- What no command writes: the parameters, the registers the host sets (CFG, DIM, OPA, OPB), and the
model's own fields. -/
structure State.SameInputs (s t : State) : Prop where
  params : t.params = s.params
  cfg : t.cfg = s.cfg
  dim : t.dim = s.dim
  opa : t.opa = s.opa
  opb : t.opb = s.opb
  draws : t.draws = s.draws
  host : t.host = s.host
  observed : t.observed = s.observed

theorem exec_sameInputs {i : Instr} {s t : State} (h : exec i s = .next t) : s.SameInputs t := by
  rcases exec_writes h with ⟨-, w, rfl⟩ | ⟨vd, bits, rfl⟩ | ⟨_, _, _, _, _, _, rfl⟩
  · exact ⟨rfl, rfl, rfl, rfl, rfl, rfl, rfl, rfl⟩
  · constructor <;> simp
  · exact ⟨rfl, rfl, rfl, rfl, rfl, rfl, rfl, rfl⟩

/-- A command changes RES only by writing its result there, and then nothing else. -/
theorem exec_res_cases {i : Instr} {s t : State} (h : exec i s = .next t) :
    t.res = s.res ∨ writesRes i ∧ ∃ w, t = s.setRes w := by
  rcases exec_writes h with hres | ⟨vd, bits, rfl⟩ | ⟨_, _, _, _, _, _, rfl⟩
  · exact .inr hres
  · exact .inl (by simp)
  · exact .inl rfl

/-! ### CFG (10_state.md R26) -/

/-- Settles O14: the write is `State.setCfg` on the state without the served access, and CFG is among
what no command writes. -/
theorem cfgRegister : Obligations.CfgRegister := by
  unfold Obligations.CfgRegister
  exact ⟨fun s w rest hw => step_write (r := .cfg) hw, fun i s t h => (exec_sameInputs h).cfg⟩

/-! ### DIM (10_state.md R27) -/

/-- The value w[4:0] that a write of w offers to DIM. -/
theorem extractLsb'_zero_five_toNat (w : Word) : (w.extractLsb' 0 5).toNat = w.toNat % 32 := by
  rw [BitVec.extractLsb'_toNat, Nat.shiftRight_zero]

/-- A write of a legal value stores it and redraws the cells. -/
theorem step_dimWrite_legal {s : State} {w : Word} {rest : List HostEvent}
    (hw : s.host = .write 0x0C#6 32 w :: rest)
    (hv : 1 ≤ w.toNat % 32 ∧ w.toNat % 32 ≤ s.params.nmax) :
    ∃ t, step s = .next t ∧ t.dim.toNat = w.toNat % 32 ∧
      t = { s with host := rest, dim := t.dim, grid := t.grid, draws := t.draws } := by
  rcases (s.setHost rest).setDim_cases w with ⟨-, -, hset⟩ | ⟨hill, -⟩
  · refine ⟨(s.setHost rest).setDim w, step_write (r := .dim) hw, ?_, ?_⟩
    · rw [hset]
      exact extractLsb'_zero_five_toNat w
    · rw [hset]
      rfl
  · rw [extractLsb'_zero_five_toNat] at hill
    exact absurd hv hill

/-- A write of any other value is ignored. -/
theorem step_dimWrite_illegal {s : State} {w : Word} {rest : List HostEvent}
    (hw : s.host = .write 0x0C#6 32 w :: rest)
    (hv : ¬(1 ≤ w.toNat % 32 ∧ w.toNat % 32 ≤ s.params.nmax)) :
    step s = .next { s with host := rest } := by
  rcases (s.setHost rest).setDim_cases w with ⟨h1, hn, -⟩ | ⟨-, hset⟩
  · rw [extractLsb'_zero_five_toNat] at h1 hn
    exact absurd ⟨h1, hn⟩ hv
  · calc step s = .next ((s.setHost rest).setDim w) := step_write (r := .dim) hw
      _ = .next (s.setHost rest) := by rw [hset]

/-- A read of DIM returns its five bits and changes nothing else. -/
theorem step_dimRead {s : State} {rest : List HostEvent} (hr : s.host = .read 0x0C#6 32 :: rest) :
    step s = .next { s with host := rest, observed := s.observed ++ [s.dim.setWidth 32] } :=
  step_read (r := .dim) hr

/-- Settles O15: the two kinds of write, what no command writes, the read, and NMAX below 32, so that it
fits DIM's five bits. -/
theorem dimRegister : Obligations.DimRegister := by
  unfold Obligations.DimRegister
  refine ⟨fun s w rest hw => ⟨step_dimWrite_legal hw, step_dimWrite_illegal hw⟩,
    fun i s t h => (exec_sameInputs h).dim, fun s rest hr => ⟨_, ?_, step_dimRead hr⟩, fun p => ?_⟩
  · exact BitVec.toNat_setWidth_of_le (by decide)
  · exact Nat.mod_eq_of_lt p.nmax.isLt

/-! ### RES (10_state.md R36) -/

/-- Settles O17: a command that changes RES is one of the five and leaves ERR alone, so one that raises
keeps RES. -/
theorem resultRegister : Obligations.ResultRegister := by
  unfold Obligations.ResultRegister
  refine ⟨fun i s t h hne => ?_, fun i s t herr h hraise => ?_,
    fun s w rest hw => step_write (r := .res) hw, rfl⟩
  · rcases exec_res_cases h with hres | ⟨hi, -⟩
    · exact absurd hres hne
    · exact hi
  · rcases exec_res_cases h with hres | ⟨-, w, rfl⟩
    · exact hres
    · rw [State.setRes_err, herr] at hraise
      cases hraise

end Sys2Proof.Machine

/-! The bus (20_memory.md R52, R56). A served access always answers a next state, so a step is refused
exactly when the bus refuses its access; and every step keeps ECODE an assigned code, so that no read of
STATUS faults. -/

namespace Sys2Proof.Machine

/-! ### What an access answers -/

/-- Issuing a word leaves the state alone, raises IllegalCommand, or runs a command. -/
theorem issue_next_cases {w : Word} {s t : State} (h : issue w s = .next t) :
    t = s ∨ t = s.raise .illegalCommand ∨ ∃ i, exec i s = .next t := by
  rcases issue_cases w s with ⟨-, hi, -⟩ | ⟨-, -, hi⟩ | ⟨i, -, -, hi⟩ <;> rw [hi] at h
  · cases h; exact .inl rfl
  · cases h; exact .inr (.inl rfl)
  · exact .inr (.inr ⟨i, h⟩)

/-- Every word written to CMD completes (30_encoding.md R63). -/
theorem issue_completes (w : Word) (s : State) : ∃ t, issue w s = .next t := by
  rcases issue_cases w s with ⟨-, h, -⟩ | ⟨-, -, h⟩ | ⟨i, -, -, h⟩
  · exact ⟨_, h⟩
  · exact ⟨_, h⟩
  · exact ⟨_, h.trans (exec_eq_body i s)⟩

/-- What a write to a register leaves: what its command leaves, or the same state but for the registers
the host sets and, on a legal DIM write, the cells (20_memory.md R54). -/
theorem hostWrite_next_cases {r : HostReg} {w : Word} {s t : State} (h : hostWrite r w s = .next t) :
    t = s.raise .illegalCommand ∨ (∃ i, exec i s = .next t) ∨
      ∃ cfg dim opa opb grid draws, t = { s with
        cfg := cfg, dim := dim, opa := opa, opb := opb, grid := grid, draws := draws } := by
  rcases hostWrite_cases r w s with ⟨-, hw⟩ | ⟨-, hw⟩ | ⟨-, hw⟩ | ⟨-, hw⟩ | ⟨-, hw⟩ | hw <;> rw [hw] at h
  · rcases issue_next_cases h with rfl | hraise | hexec
    · exact .inr (.inr ⟨_, _, _, _, _, _, rfl⟩)
    · exact .inl hraise
    · exact .inr (.inl hexec)
  case inr.inr.inl =>
    cases h
    rcases s.setDim_cases w with ⟨-, -, hd⟩ | ⟨-, hd⟩ <;> rw [hd] <;>
      exact .inr (.inr ⟨_, _, _, _, _, _, rfl⟩)
  all_goals cases h; exact .inr (.inr ⟨_, _, _, _, _, _, rfl⟩)

/-- Every write to a register completes (20_memory.md R54). -/
theorem hostWrite_completes (r : HostReg) (w : Word) (s : State) : ∃ t, hostWrite r w s = .next t := by
  rcases hostWrite_cases r w s with ⟨-, h⟩ | ⟨-, h⟩ | ⟨-, h⟩ | ⟨-, h⟩ | ⟨-, h⟩ | h
  · rw [h]; exact issue_completes w s
  all_goals exact ⟨_, h⟩

/-- A read of a register completes unless it is of STATUS with a reserved code. -/
theorem hostRead_completes (r : HostReg) {s : State} (hc : reservedCode s.ecode = false) :
    hostRead r s = .next (s.observe (readWord r s)) := by
  rw [hostRead, if_neg fun h => by rw [hc] at h; cases h.2]

/-- A read of a register may fault, but is not refused. -/
theorem hostRead_not_refused (r : HostReg) (s : State) (why : Refusal) : hostRead r s ≠ .refused why := by
  rw [hostRead]
  split <;> exact nofun

/-! ### Refused accesses (20_memory.md R52) -/

/-- A write is refused exactly when its target is no register. -/
theorem serve_write_refused_iff (offset : BitVec 6) (bits : Nat) (data : Word) (s : State) :
    (∃ why, serve (.write offset bits data) s = .refused why) ↔
      ¬∃ r, busTarget offset bits = .register r := by
  rw [serve]
  cases busTarget offset bits with
  | refused why => simp
  | register r =>
    obtain ⟨t, ht⟩ := hostWrite_completes r data s
    simp [ht]

/-- A read is refused exactly when its target is no register. -/
theorem serve_read_refused_iff (offset : BitVec 6) (bits : Nat) (s : State) :
    (∃ why, serve (.read offset bits) s = .refused why) ↔
      ¬∃ r, busTarget offset bits = .register r := by
  rw [serve]
  cases busTarget offset bits with
  | refused why => simp
  | register r => simp [hostRead_not_refused]

/-- Settles O10: either access is refused exactly when its target is no register, which is what
`busTarget_register_iff` describes. -/
theorem refusedAccesses : Obligations.RefusedAccesses := by
  unfold Obligations.RefusedAccesses
  intro s offset bits data rest hs
  have hserve : (∃ why, step s = .refused why) ↔ ¬∃ r, busTarget offset bits = .register r := by
    rcases hs with hw | hr
    · rw [step_cons hw]; exact serve_write_refused_iff offset bits data _
    · rw [step_cons hr]; exact serve_read_refused_iff offset bits _
  rw [hserve, busTarget_register_iff]
  omega

/-! ### What a command does to STATUS (10_state.md R24) -/

/-- The states s and t agree in ERR and ECODE. -/
def State.sameStatus (s t : State) : Prop := t.err = s.err ∧ t.ecode = s.ecode

theorem State.sameStatus_refl (s : State) : s.sameStatus s := ⟨rfl, rfl⟩

theorem State.sameStatus_trans {s t u : State} (hst : s.sameStatus t) (htu : t.sameStatus u) :
    s.sameStatus u := ⟨htu.1.trans hst.1, htu.2.trans hst.2⟩

/-- EMBPAT's stage writes cells only; the error it may end with is raised after it. -/
theorem embpatStage_sameStatus (s : State) : s.sameStatus (embpatStage s).last := by
  rcases embpatStage_cases s with ⟨g, h⟩ | h | ⟨g, h⟩ | ⟨g, h⟩ <;> rw [h] <;> exact ⟨rfl, rfl⟩

theorem embfmtStage_sameStatus (s : State) : s.sameStatus (embfmtStage s).last := by
  rcases embfmtStage_cases s with ⟨f, -, -, h⟩ | ⟨e, -, h⟩ | ⟨-, -, h⟩ <;> rw [h]
  · exact ⟨by simp, by simp⟩
  · exact s.sameStatus_refl
  · exact s.sameStatus_refl

theorem embdataStageWith_sameStatus (fn : MaskFn) (vs1 : VReg) (s : State) :
    s.sameStatus (embdataStageWith fn vs1 s).last := by
  rcases embdataStageWith_cases fn vs1 s with h | ⟨g, n, ⟨-, h⟩ | ⟨-, h⟩⟩ <;> rw [h] <;>
    exact ⟨rfl, rfl⟩

/-- ENCODE clears STATUS at its start, and no stage writes it after that (47_encode.md R165). -/
theorem encodeBodyWith_sameStatus (fn : MaskFn) (vs1 : VReg) (s : State) :
    s.clearMatrix.sameStatus (encodeBodyWith fn vs1 s).last :=
  Ending.last_andThen (P := s.clearMatrix.sameStatus)
    (Ending.last_andThen (P := s.clearMatrix.sameStatus) (embpatStage_sameStatus s.clearMatrix)
      fun t ht => State.sameStatus_trans ht (embfmtStage_sameStatus t))
    fun t ht => State.sameStatus_trans ht (embdataStageWith_sameStatus fn vs1 t)

theorem fmtbitsBody_sameStatus (s : State) : s.sameStatus (fmtbitsBody s).last := by
  rcases fmtbitsBody_cases s with ⟨f, -, h⟩ | ⟨e, -, h⟩ <;> rw [h] <;> exact ⟨rfl, rfl⟩

/-- Before any raise, a command's writes leave STATUS alone, except that CLEAR and ENCODE clear it
(60_exceptions.md R185). -/
theorem bodyOf_status (i : Instr) (s : State) :
    s.sameStatus (bodyOf i s).last ∨
      acceptedInError i = true ∧ s.clearMatrix.sameStatus (bodyOf i s).last := by
  cases i with
  | clear => exact .inr ⟨rfl, State.sameStatus_refl _⟩
  | encode vs1 => exact .inr ⟨rfl, encodeBodyWith_sameStatus _ vs1 s⟩
  | embpat => exact .inl (embpatStage_sameStatus s)
  | embfmt => exact .inl (embfmtStage_sameStatus s)
  | embdata vs1 => exact .inl (embdataStageWith_sameStatus _ vs1 s)
  | fmtbits => exact .inl (fmtbitsBody_sameStatus s)
  | msbpos => exact .inl ⟨rfl, rfl⟩
  | vlen vs1 => exact .inl ⟨rfl, rfl⟩
  | bchrem => left; rw [bodyOf, bchremBody]; split <;> exact ⟨rfl, rfl⟩
  | get x y => left; rw [bodyOf, getBody]; split <;> exact ⟨rfl, rfl⟩
  | set x y b => left; rw [bodyOf, setBody]; split <;> exact ⟨rfl, rfl⟩
  | vget vs1 => left; rw [bodyOf, vgetBody]; split <;> exact ⟨rfl, rfl⟩
  | vclr vd => exact .inl ⟨by simp [bodyOf], by simp [bodyOf]⟩
  | vapp vd nb => left; rw [bodyOf, vappBody]; split <;> constructor <;> simp
  | vxor vd vs1 vs2 => left; rw [bodyOf, vxorBody]; split <;> constructor <;> simp

/-- What a command leaves in STATUS: what was there, nothing after CLEAR or ENCODE, or the error it
raised (10_state.md R24). -/
theorem exec_status {i : Instr} {s t : State} (h : exec i s = .next t) :
    s.sameStatus t ∨ (acceptedInError i = true ∧ t.err = false ∧ t.ecode = 0#4) ∨
      ∃ e : ErrorKind, t.err = true ∧ t.ecode = e.code := by
  have hb := bodyOf_status i s
  rw [exec_eq_next_iff] at h
  subst h
  cases hr : bodyOf i s with
  | failed e u => exact .inr (.inr ⟨e, rfl, rfl⟩)
  | done u =>
    rw [hr] at hb
    rcases hb with hkeep | ⟨ha, herr, hcode⟩
    · exact .inl hkeep
    · exact .inr (.inl ⟨ha, herr, hcode⟩)

/-! ### ECODE stays an assigned code (60_exceptions.md R181) -/

theorem ErrorKind.code_not_reserved (e : ErrorKind) : reservedCode e.code = false := by
  have := e.code_range
  simp only [reservedCode, decide_eq_false_iff_not]
  omega

theorem exec_keeps_assigned {i : Instr} {s t : State} (hc : reservedCode s.ecode = false)
    (h : exec i s = .next t) : reservedCode t.ecode = false := by
  rcases exec_status h with ⟨-, hcode⟩ | ⟨-, -, hcode⟩ | ⟨e, -, hcode⟩ <;> rw [hcode]
  · exact hc
  · rfl
  · exact e.code_not_reserved

theorem hostWrite_keeps_assigned {r : HostReg} {w : Word} {s t : State}
    (hc : reservedCode s.ecode = false) (h : hostWrite r w s = .next t) :
    reservedCode t.ecode = false := by
  rcases hostWrite_next_cases h with rfl | ⟨i, hi⟩ | ⟨_, _, _, _, _, _, rfl⟩
  · exact ErrorKind.code_not_reserved _
  · exact exec_keeps_assigned hc hi
  · exact hc

theorem step_keeps_assigned {s t : State} (hc : reservedCode s.ecode = false) (h : step s = .next t) :
    reservedCode t.ecode = false := by
  rcases step_next_cases h with ⟨-, rfl⟩ | ⟨e, rest, -, ⟨-, rfl⟩ | ⟨_, _, _, -, -, rfl⟩ |
    ⟨_, _, _, _, -, -, hw⟩⟩
  · exact hc
  · rfl
  · exact hc
  · exact hostWrite_keeps_assigned (s := s.setHost rest) hc hw

/-! ### A step takes one access off the host's list (20_memory.md R53) -/

theorem hostWrite_host {r : HostReg} {w : Word} {s t : State} (h : hostWrite r w s = .next t) :
    t.host = s.host := by
  rcases hostWrite_next_cases h with rfl | ⟨i, hi⟩ | ⟨_, _, _, _, _, _, rfl⟩
  · rfl
  · exact (exec_sameInputs hi).host
  · rfl

theorem step_host {s t : State} (h : step s = .next t) : t.host = s.host.tail := by
  rcases step_next_cases h with ⟨hs, rfl⟩ | ⟨e, rest, hs, ⟨-, rfl⟩ | ⟨_, _, _, -, -, rfl⟩ |
    ⟨_, _, _, _, -, -, hw⟩⟩ <;> rw [hs]
  · rfl
  · rfl
  · rfl
  · exact hostWrite_host hw

/-! ### Permitted accesses (20_memory.md R56) -/

/-- A permitted event is served: it completes while ECODE is an assigned code. -/
theorem serve_completes {e : HostEvent} {s : State} (hc : reservedCode s.ecode = false)
    (he : e.permitted = true) : ∃ t, serve e s = .next t := by
  cases e with
  | reset => exact ⟨_, rfl⟩
  | write offset bits data =>
    obtain ⟨r, hr⟩ := (busTarget_register_iff offset bits).2 (of_decide_eq_true he)
    rw [serve, hr]
    exact hostWrite_completes r data s
  | read offset bits =>
    obtain ⟨r, hr⟩ := (busTarget_register_iff offset bits).2 (of_decide_eq_true he)
    rw [serve, hr]
    exact ⟨_, hostRead_completes r hc⟩

/-- What a run needs to go on: ECODE is an assigned code, and every pending access is permitted. -/
def State.servable (s : State) : Prop :=
  reservedCode s.ecode = false ∧ ∀ e ∈ s.host, e.permitted = true

theorem step_completes {s : State} (hs : s.servable) : ∃ t, step s = .next t := by
  cases hh : s.host with
  | nil => exact ⟨s, by rw [step, hh]⟩
  | cons e rest =>
    rw [step_cons hh]
    exact serve_completes (s := s.setHost rest) hs.1 (hs.2 e (hh ▸ List.mem_cons_self))

theorem step_servable {s t : State} (hs : s.servable) (h : step s = .next t) : t.servable :=
  ⟨step_keeps_assigned hs.1 h, fun e he => hs.2 e (List.mem_of_mem_tail (step_host h ▸ he))⟩

@[simp] theorem runFor_zero (s : State) : runFor 0 s = .next s := rfl

/-- A run whose first step answers t goes on from t. -/
theorem runFor_succ {k : Nat} {s t : State} (h : step s = .next t) : runFor (k + 1) s = runFor k t := by
  have hcore : Sys2Proof.core.step s = .next t := h
  simp only [runFor, Host.Core.run, hcore]
  rfl

/-- No run from a servable state stops. -/
theorem runFor_completes (k : Nat) {s : State} (hs : s.servable) : ∃ t, runFor k s = .next t := by
  induction k generalizing s with
  | zero => exact ⟨s, runFor_zero s⟩
  | succ k ih =>
    obtain ⟨t, ht⟩ := step_completes hs
    rw [runFor_succ ht]
    exact ih (step_servable hs ht)

/-- Settles O11: of the invariant only the assigned code is needed, and the steps keep it. -/
theorem permittedAccessesNeverStop : Obligations.PermittedAccessesNeverStop := by
  unfold Obligations.PermittedAccessesNeverStop
  exact fun k s hinv hperm => runFor_completes k ⟨hinv.code_assigned, hperm⟩

end Sys2Proof.Machine

/-! The decoder's rejections and the dispatch of a CMD write (30_encoding.md R63, R65 to R67). A word
that a row of the opcode table accepts has the row's opcode, and 0 on the bits that the row's mask takes
in below the opcode; the statements about ILLEGAL words follow. -/

namespace Sys2Proof.Machine

/-! ### The decoder by the rows of the table -/

/-- A decoded command is read off a row that accepts the word (30_encoding.md R66). -/
theorem decode_eq_command {w : Word} {i : Instr} (h : decode w = .command i) :
    ∃ r ∈ opTable, r.accepts w = true ∧ i = readFields r.op w := by
  unfold decode at h
  split at h
  next r hfind =>
    cases h
    exact ⟨r, List.mem_of_find?_eq_some hfind, List.find?_some (p := fun r : OpRow => r.accepts w) hfind, rfl⟩
  next => cases h

/-- A word that no row accepts is ILLEGAL (30_encoding.md R66). -/
theorem decode_illegal_of_not_accepts {w : Word} (h : ∀ r ∈ opTable, ¬ r.accepts w = true) :
    ∃ why, decode w = .illegal why :=
  ⟨illegalReason w, by rw [decode, List.find?_eq_none.2 h]⟩

theorem OpRow.accepts_iff {r : OpRow} {w : Word} :
    r.accepts w = true ↔ w &&& r.mask = r.pattern ∧ extraCondition r.op w = true := by
  simp [OpRow.accepts]

/-- How a row's mask and pattern are made: the mask takes in the whole opcode and the row's must-be-zero
bits, and the pattern is 0 below the opcode (30_encoding.md R65). -/
theorem opTable_masks : ∀ r ∈ opTable, fieldOpc r.mask = BitVec.allOnes 8 ∧
    mustBeZero (fieldOpc r.pattern) = some (r.mask &&& 0x00FFFFFF#32) ∧
    r.pattern &&& 0x00FFFFFF#32 = 0#32 := by decide

/-- A word has the opcode of the row that accepts it. -/
theorem fieldOpc_of_accepts {r : OpRow} {w : Word} (hr : r ∈ opTable) (h : r.accepts w = true) :
    fieldOpc w = fieldOpc r.pattern := by
  obtain ⟨hmask, -, -⟩ := opTable_masks r hr
  obtain ⟨hpat, -⟩ := OpRow.accepts_iff.1 h
  calc fieldOpc w = fieldOpc w &&& fieldOpc r.mask := by rw [hmask, BitVec.and_allOnes]
    _ = fieldOpc (w &&& r.mask) := BitVec.extractLsb'_and.symm
    _ = fieldOpc r.pattern := by rw [hpat]

/-- A word that a row accepts is 0 on the must-be-zero bits of its opcode. -/
theorem mustBeZero_of_accepts {r : OpRow} {w m : Word} (hr : r ∈ opTable) (h : r.accepts w = true)
    (hm : mustBeZero (fieldOpc w) = some m) : w &&& m = 0#32 := by
  obtain ⟨-, hbits, hlow⟩ := opTable_masks r hr
  obtain ⟨hpat, -⟩ := OpRow.accepts_iff.1 h
  rw [fieldOpc_of_accepts hr h, hbits] at hm
  cases hm
  rw [← BitVec.and_assoc, hpat, hlow]

/-- Settles O3: a row that accepted the word would have 0 on those bits, and a decoded command comes from
a row that accepts its word. -/
theorem mustBeZeroBitsAreIllegal : Obligations.MustBeZeroBitsAreIllegal := by
  unfold Obligations.MustBeZeroBitsAreIllegal
  refine ⟨fun w m hm hne => ?_, fun w i hd => ?_⟩
  · exact decode_illegal_of_not_accepts fun r hr h => hne (mustBeZero_of_accepts hr h hm)
  · obtain ⟨r, hr, hacc, hi⟩ := decode_eq_command hd
    obtain ⟨hpat, -⟩ := OpRow.accepts_iff.1 hacc
    exact ⟨r, hr, hpat, hi⟩

/-! ### VAPP's append width (30_encoding.md R67) -/

theorem opTable_vapp : ∀ r ∈ opTable, fieldOpc r.pattern = 0x19#8 → r.op = .vapp := by decide

/-- Any word with VAPP's opcode and NB above 32 is ILLEGAL: the one row with that opcode has the extra
condition NB <= 32. -/
theorem decode_illegal_of_wide_append {w : Word} (hopc : fieldOpc w = 0x19#8)
    (hnb : 33 ≤ (fieldNb w).toNat) : ∃ why, decode w = .illegal why := by
  refine decode_illegal_of_not_accepts fun r hr h => ?_
  have hop : r.op = .vapp := opTable_vapp r hr ((fieldOpc_of_accepts hr h).symm.trans hopc)
  obtain ⟨-, hextra⟩ := OpRow.accepts_iff.1 h
  rw [hop, extraCondition, decide_eq_true_iff] at hextra
  omega

/-- The word of VAPP vd, nb, whatever nb, has VAPP's opcode and the field NB = nb. -/
theorem vappWord_fields (vd : VReg) (nb : BitVec 6) :
    let w := 0x19000000#32 ||| ((vregField vd).setWidth 32 <<< 22) ||| nb.setWidth 32
    fieldOpc w = 0x19#8 ∧ fieldNb w = nb := by
  cases vd <;> revert nb <;> decide

/-- Settles O5: the word has VAPP's opcode and NB above 32. -/
theorem wideAppendIsIllegal : Obligations.WideAppendIsIllegal := by
  unfold Obligations.WideAppendIsIllegal
  intro vd nb hnb
  obtain ⟨hopc, hfield⟩ := vappWord_fields vd nb
  exact decode_illegal_of_wide_append hopc (by rwa [hfield])

/-! ### Issuing a command word (30_encoding.md R63) -/

theorem acceptedInError_iff {i : Instr} :
    acceptedInError i = true ↔ i = .clear ∨ ∃ v, i = .encode v := by
  cases i <;> simp [acceptedInError]

/-- An accepted command is executed. -/
theorem issue_of_accepted {w : Word} {i : Instr} {s : State} (hd : decode w = .command i)
    (h : s.err = false ∨ acceptedInError i = true) : issue w s = exec i s := by
  rw [issue, hd]
  rcases h with herr | hacc
  · simp [herr]
  · simp [hacc]

/-- A command that the error state does not accept is ignored. -/
theorem issue_of_ignored {w : Word} {i : Instr} {s : State} (hd : decode w = .command i)
    (herr : s.err = true) (hacc : ¬ acceptedInError i = true) : issue w s = .next s := by
  rw [issue, hd]
  simp [herr, hacc]

/-- An ILLEGAL word is ignored while ERR = 1, and raises IllegalCommand while ERR = 0. -/
theorem issue_of_illegal {w : Word} {why : Illegal} (s : State) (hd : decode w = .illegal why) :
    issue w s = if s.err then .next s else .next (s.raise .illegalCommand) := by
  rw [issue, hd]

/-- Settles O7: the step issues the word on the state without the served access, and each clause is one
way of issuing it. -/
theorem cmdWriteDispatch : Obligations.CmdWriteDispatch := by
  unfold Obligations.CmdWriteDispatch
  intro s w rest hw
  rw [step_cmdWrite hw]
  refine ⟨fun i hd h => ?_, fun i hd herr hclear hencode => ?_, fun why hd herr => ?_,
    fun why hd herr => ?_⟩
  · exact issue_of_accepted hd (h.imp_right acceptedInError_iff.2)
  · refine issue_of_ignored hd herr fun hacc => ?_
    rcases acceptedInError_iff.1 hacc with hi | ⟨v, hi⟩
    · exact hclear hi
    · exact hencode v hi
  · rw [issue_of_illegal _ hd]
    exact if_pos herr
  · rw [issue_of_illegal _ hd]
    exact if_neg (by simp [herr])

end Sys2Proof.Machine

/-! The commands CLEAR, GET and SET (41_matrix.md R100 to R102). A row of the opcode table that accepts a
word decodes it, so the words of GET and SET, of format C, decode to their commands; the bodies of the two
commands are given by where the coordinates lie. -/

namespace Sys2Proof.Machine

/-! ### Decoding by a row that accepts the word (30_encoding.md R65, R66) -/

/-- The opcode names the row. -/
theorem opTable_opc_injective : ∀ r ∈ opTable, ∀ r' ∈ opTable,
    fieldOpc r.pattern = fieldOpc r'.pattern → r = r' := by decide

/-- A word decodes by any row that accepts it, for only one can: two would share the word's opcode. -/
theorem decode_of_accepts {r : OpRow} {w : Word} (hr : r ∈ opTable) (h : r.accepts w = true) :
    decode w = .command (readFields r.op w) := by
  rw [decode]
  split
  next r' hfind =>
    have hr' : r' ∈ opTable := List.mem_of_find?_eq_some hfind
    have h' : r'.accepts w = true := List.find?_some (p := fun r : OpRow => r.accepts w) hfind
    have hopc : fieldOpc r'.pattern = fieldOpc r.pattern :=
      (fieldOpc_of_accepts hr' h').symm.trans (fieldOpc_of_accepts hr h)
    rw [opTable_opc_injective r' hr' r hr hopc]
  next hnone => exact absurd h (List.find?_eq_none.1 hnone r hr)

/-! ### Words of format C (30_encoding.md R61, R62) -/

/-- Format C as the or of its fields, each shifted to its place. -/
theorem formatC_eq_or (opc : BitVec 8) (b : Bool) (x y : BitVec 8) :
    formatC opc b x y = (opc.setWidth 32 <<< 24) ||| ((BitVec.ofBool b).setWidth 32 <<< 16)
      ||| (x.setWidth 32 <<< 8) ||| y.setWidth 32 := by
  apply BitVec.eq_of_getLsbD_eq
  intro i hi
  simp only [formatC, BitVec.getLsbD_or, BitVec.getLsbD_append, BitVec.getLsbD_shiftLeft,
    BitVec.getLsbD_setWidth]
  interval_cases i <;> simp

@[simp] theorem fieldX_formatC (opc : BitVec 8) (b : Bool) (x y : BitVec 8) :
    fieldX (formatC opc b x y) = x := by
  rw [fieldX, formatC, BitVec.extractLsb'_append_eq_of_le (by decide)]
  exact BitVec.extractLsb'_append_eq_right

@[simp] theorem fieldY_formatC (opc : BitVec 8) (b : Bool) (x y : BitVec 8) :
    fieldY (formatC opc b x y) = y := by
  rw [fieldY, formatC]
  exact BitVec.extractLsb'_append_eq_right

@[simp] theorem fieldB_formatC (opc : BitVec 8) (b : Bool) (x y : BitVec 8) :
    fieldB (formatC opc b x y) = b := by
  rw [fieldB, formatC, BitVec.getLsbD_append, BitVec.getLsbD_append, BitVec.getLsbD_append]
  simp

/-- GET's row accepts its word: B is 0. -/
theorem decode_encode_get (x y : BitVec 8) : decode (encode (.get x y)) = .command (.get x y) := by
  have hacc : OpRow.accepts ⟨.get, 0x10000000#32, 0xFFFF0000#32⟩ (encode (.get x y)) = true :=
    OpRow.accepts_iff.2 ⟨Laws.TableRow.formatC_zero_and 0x10#8 x y, rfl⟩
  rw [decode_of_accepts (by decide) hacc]
  simp [readFields, encode]

/-- SET's row accepts its word: the mask drops B, X and Y. -/
theorem decode_encode_set (x y : BitVec 8) (b : Bool) :
    decode (encode (.set x y b)) = .command (.set x y b) := by
  have hacc : OpRow.accepts ⟨.set, 0x11000000#32, 0xFFFE0000#32⟩ (encode (.set x y b)) = true :=
    OpRow.accepts_iff.2 ⟨Laws.TableRow.formatC_and 0x11#8 b x y, rfl⟩
  rw [decode_of_accepts (by decide) hacc]
  simp [readFields, encode]

/-! ### Inside and outside the active region (10_state.md R30) -/

theorem State.outside_iff {s : State} {x y : BitVec 8} :
    s.outside x y = true ↔ s.dim.toNat ≤ x.toNat ∨ s.dim.toNat ≤ y.toNat := by
  rw [State.outside, Bool.or_eq_true, decide_eq_true_iff, decide_eq_true_iff, State.side]

/-- DIM has five bits, so an active coordinate is one of the storage. -/
theorem State.lt_maxSide_of_lt_dim {s : State} {n : Nat} (h : n < s.dim.toNat) : n < Config.maxSide := by
  have hdim : s.dim.toNat ≤ Config.maxSide := Nat.le_of_lt_succ s.dim.isLt
  exact Nat.lt_of_lt_of_le h hdim

section Inside

variable {x y : BitVec 8} {s : State}

theorem State.not_outside (hx : x.toNat < s.dim.toNat) (hy : y.toNat < s.dim.toNat) :
    ¬ s.outside x y = true := by
  rw [State.outside_iff]
  omega

/-- GET of an active cell is done with the cell's code in RES (41_matrix.md R101). -/
theorem getBody_of_inside (hx : x.toNat < s.dim.toNat) (hy : y.toNat < s.dim.toNat) :
    getBody x y s = .done (s.setRes ((cellCode (s.grid.cell x.toNat y.toNat)).setWidth 32)) :=
  if_neg (State.not_outside hx hy)

/-- SET of an active cell is done with the bit's code in the cell (41_matrix.md R102). -/
theorem setBody_of_inside (b : Bool) (hx : x.toNat < s.dim.toNat) (hy : y.toNat < s.dim.toNat) :
    setBody x y b s = .done (s.setGrid (s.grid.setCell x.toNat y.toNat (codeOfBit b))) :=
  if_neg (State.not_outside hx hy)

end Inside

section Outside

variable {x y : BitVec 8} {s : State} (h : s.dim.toNat ≤ x.toNat ∨ s.dim.toNat ≤ y.toNat)
include h

theorem getBody_of_outside : getBody x y s = .failed .outOfBounds s := if_pos (State.outside_iff.2 h)

theorem setBody_of_outside (b : Bool) : setBody x y b s = .failed .outOfBounds s :=
  if_pos (State.outside_iff.2 h)

end Outside

/-! ### The three commands -/

/-- Settles O26: the word is GET's encoding, and the two cases are inside and outside the active region. -/
theorem getReadsOneCell : Obligations.GetReadsOneCell := by
  unfold Obligations.GetReadsOneCell
  refine ⟨fun x y => ?_, fun x y s hx hy => ?_, fun x y s h => ?_⟩
  · have hword : encode (.get x y) =
        0x10000000#32 ||| (x.setWidth 32 <<< 8) ||| y.setWidth 32 := by
      simp [encode, formatC_eq_or]
    rw [← hword, decode_encode_get]
  · rw [exec_of_done (i := .get x y) (getBody_of_inside hx hy)]
    cases s.grid.cell x.toNat y.toNat <;> rfl
  · exact exec_of_failed (i := .get x y) (getBody_of_outside h)

/-- Settles O27: the word is SET's encoding; inside the active region the new matrix is the old one with
one cell written, and outside it nothing is written. -/
theorem setWritesOneCell : Obligations.SetWritesOneCell := by
  unfold Obligations.SetWritesOneCell
  refine ⟨fun x y b => ?_, fun x y b s hx hy => ?_, fun x y b s h => ?_⟩
  · have hword : encode (.set x y b) = 0x11000000#32 ||| ((BitVec.ofBool b).setWidth 32 <<< 16)
        ||| (x.setWidth 32 <<< 8) ||| y.setWidth 32 := formatC_eq_or 0x11#8 b x y
    rw [← hword, decode_encode_set]
  · refine ⟨_, exec_of_done (i := .set x y b) (setBody_of_inside b hx hy), ?_, fun x' y' hne => ?_⟩
    · rw [Grid.cell_setCell _ _ (State.lt_maxSide_of_lt_dim hx) (State.lt_maxSide_of_lt_dim hy),
        if_pos ⟨rfl, rfl⟩, codeOfBit]
    · exact Grid.cell_setCell_ne _ _ hne
  · exact exec_of_failed (i := .set x y b) (setBody_of_outside h b)

/-- Settles O25: CLEAR leaves the cleared matrix, and NMAX is within the storage. -/
theorem clearEmptiesTheMatrix : Obligations.ClearEmptiesTheMatrix := by
  unfold Obligations.ClearEmptiesTheMatrix
  refine ⟨by decide, fun s => ⟨Grid.cleared s.params.nmax, rfl, fun x y hx hy => ?_⟩⟩
  exact Grid.cell_cleared (Nat.le_of_lt_succ s.params.nmax.isLt) hx hy

end Sys2Proof.Machine

/-! The bit-vector commands VCLR, VAPP, VXOR, VGET and VLEN (42_bitvector.md R110 to R115). Their words are
of format V, and a word decodes to its command when it carries the command's fields. VCLR, VAPP and VXOR end
in one write to VD, whose effect and frame are stated once. -/

namespace Sys2Proof.Machine

/-! ### Words of format V (30_encoding.md R61, R62) -/

/-- The word of a command decodes to it if the fields read back and the row's extra condition holds: the
row that the word belongs to then accepts it. -/
theorem decode_encode_of_fields {i : Instr} (hrow : Laws.TableRow.Statement i)
    (hextra : extraCondition (Laws.TableRow.opOf i) (encode i) = true)
    (hfields : readFields (Laws.TableRow.opOf i) (encode i) = i) : decode (encode i) = .command i := by
  obtain ⟨r, hr, hop, hpat⟩ := hrow
  rw [← hop] at hextra hfields
  rw [decode_of_accepts hr (OpRow.accepts_iff.2 ⟨hpat, hextra⟩), hfields]

/-- Format V as the or of its fields, each shifted to its place. -/
theorem formatV_eq_or (opc : BitVec 8) (vd vs1 vs2 : BitVec 2) (nb : BitVec 6) :
    formatV opc vd vs1 vs2 nb = (opc.setWidth 32 <<< 24) ||| (vd.setWidth 32 <<< 22)
      ||| (vs1.setWidth 32 <<< 20) ||| (vs2.setWidth 32 <<< 18) ||| nb.setWidth 32 := by
  apply BitVec.eq_of_getLsbD_eq
  intro i hi
  simp only [formatV, BitVec.getLsbD_or, BitVec.getLsbD_append, BitVec.getLsbD_shiftLeft,
    BitVec.getLsbD_setWidth]
  interval_cases i <;> simp

@[simp] theorem vregOfField_vregField (r : VReg) : vregOfField (vregField r) = r := by
  cases r <;> rfl

section FormatV

variable (opc : BitVec 8) (vd vs1 vs2 : BitVec 2) (nb : BitVec 6)

@[simp] theorem fieldVd_formatV : fieldVd (formatV opc vd vs1 vs2 nb) = vregOfField vd := by
  simp (disch := decide) only [fieldVd, formatV, BitVec.extractLsb'_append_eq_of_le,
    Nat.reduceSub, BitVec.extractLsb'_append_eq_right]

@[simp] theorem fieldVs1_formatV : fieldVs1 (formatV opc vd vs1 vs2 nb) = vregOfField vs1 := by
  simp (disch := decide) only [fieldVs1, formatV, BitVec.extractLsb'_append_eq_of_le,
    Nat.reduceSub, BitVec.extractLsb'_append_eq_right]

@[simp] theorem fieldVs2_formatV : fieldVs2 (formatV opc vd vs1 vs2 nb) = vregOfField vs2 := by
  simp (disch := decide) only [fieldVs2, formatV, BitVec.extractLsb'_append_eq_of_le,
    Nat.reduceSub, BitVec.extractLsb'_append_eq_right]

@[simp] theorem fieldNb_formatV : fieldNb (formatV opc vd vs1 vs2 nb) = nb := by
  rw [fieldNb, formatV]
  exact BitVec.extractLsb'_append_eq_right

end FormatV

theorem decode_encode_vclr (vd : VReg) : decode (encode (.vclr vd)) = .command (.vclr vd) :=
  decode_encode_of_fields (Laws.TableRow.vclr vd) rfl
    (by simp [Laws.TableRow.opOf, readFields, encode])

/-- VAPP's row has the one extra condition, NB <= 32 (30_encoding.md R67). -/
theorem decode_encode_vapp (vd : VReg) {nb : BitVec 6} (hnb : nb.toNat ≤ 32) :
    decode (encode (.vapp vd nb)) = .command (.vapp vd nb) :=
  decode_encode_of_fields (Laws.TableRow.vapp vd nb)
    (by simp [Laws.TableRow.opOf, extraCondition, encode, hnb])
    (by simp [Laws.TableRow.opOf, readFields, encode])

theorem decode_encode_vxor (vd vs1 vs2 : VReg) :
    decode (encode (.vxor vd vs1 vs2)) = .command (.vxor vd vs1 vs2) :=
  decode_encode_of_fields (Laws.TableRow.vxor vd vs1 vs2) rfl
    (by simp [Laws.TableRow.opOf, readFields, encode])

theorem decode_encode_vget (vs1 : VReg) : decode (encode (.vget vs1)) = .command (.vget vs1) :=
  decode_encode_of_fields (Laws.TableRow.vget vs1) rfl
    (by simp [Laws.TableRow.opOf, readFields, encode])

theorem decode_encode_vlen (vs1 : VReg) : decode (encode (.vlen vs1)) = .command (.vlen vs1) :=
  decode_encode_of_fields (Laws.TableRow.vlen vs1) rfl
    (by simp [Laws.TableRow.opOf, readFields, encode])

/-! ### Writing VD -/

/-- A write to a vector register leaves the others as they were. -/
theorem State.setVec_vec_ne (s : State) {r r' : VReg} (l : List Bool) (h : r' ≠ r) :
    (s.setVec r l).vec r' = s.vec r' := by
  rw [State.setVec_vec, if_neg h]

/-- A command whose body is one write to VD leaves the bits there, the other vectors as they were, and
every other field as it was. -/
theorem exec_of_setVec {i : Instr} {s : State} {vd : VReg} {bits : List Bool}
    (h : bodyOf i s = .done (s.setVec vd bits)) :
    ∃ t, exec i s = .next t ∧ t.vec vd = bits ∧ (∀ r, r ≠ vd → t.vec r = s.vec r) ∧
      t = { s with v0 := t.v0, v1 := t.v1, v2 := t.v2, v3 := t.v3 } :=
  ⟨_, exec_of_done h, s.setVec_vec_same vd bits, fun _ hr => s.setVec_vec_ne bits hr,
    s.setVec_eq vd bits⟩

/-! ### VCLR, VAPP and VXOR -/

/-- Settles O29: VCLR's body is one write, of the empty vector. -/
theorem vclrEmptiesOneVector : Obligations.VclrEmptiesOneVector := by
  unfold Obligations.VclrEmptiesOneVector
  refine ⟨fun vd => ?_, fun vd s => exec_of_setVec (i := .vclr vd) rfl⟩
  have hword : encode (.vclr vd) = 0x18000000#32 ||| ((vregField vd).setWidth 32 <<< 22) := by
    simp [encode, formatV_eq_or]
  rw [← hword, decode_encode_vclr]

/-- Settles O30: within VCAP, VAPP's body is one write, of the old bits with the low bits of OPA after
them; beyond it the body fails with nothing written. -/
theorem vappAppendsLowBits : Obligations.VappAppendsLowBits := by
  unfold Obligations.VappAppendsLowBits
  refine ⟨fun vd nb hnb => ?_, fun vd nb s _ hfits => ?_, fun vd nb s _ hlong => ?_⟩
  · have hword : encode (.vapp vd nb) =
        0x19000000#32 ||| ((vregField vd).setWidth 32 <<< 22) ||| nb.setWidth 32 := by
      simp [encode, formatV_eq_or]
    rw [← hword, decode_encode_vapp vd hnb]
  · obtain ⟨t, hexec, hvd, hothers, hframe⟩ :=
      exec_of_setVec (i := .vapp vd nb) (if_neg (Nat.not_lt.2 hfits))
    refine ⟨t, hexec, ?_, fun p hp => ?_, fun k hk => ?_, hothers, hframe⟩
    · rw [hvd, appendBits_length]
    · rw [hvd, appendBits_old _ _ _ hp]
    · rw [hvd, appendBits_new _ _ _ hk, BitVec.testBit_toNat]
  · exact exec_of_failed (i := .vapp vd nb) (if_pos hlong)

/-- Settles O31: on sources of one length, VXOR's body is one write, of their exclusive-or as they were
before it; on others the body fails with nothing written. -/
theorem vxorCombinesVectors : Obligations.VxorCombinesVectors := by
  unfold Obligations.VxorCombinesVectors
  refine ⟨fun vd vs1 vs2 => ?_, fun vd vs1 vs2 s hlen => ?_, fun vd vs1 vs2 s hne => ?_⟩
  · have hword : encode (.vxor vd vs1 vs2) = 0x1A000000#32 ||| ((vregField vd).setWidth 32 <<< 22)
        ||| ((vregField vs1).setWidth 32 <<< 20) ||| ((vregField vs2).setWidth 32 <<< 18) := by
      simp [encode, formatV_eq_or]
    rw [← hword, decode_encode_vxor]
  · obtain ⟨t, hexec, hvd, hothers, hframe⟩ :=
      exec_of_setVec (i := .vxor vd vs1 vs2) (if_neg (not_not.2 hlen))
    refine ⟨t, hexec, ?_, fun p a b ha hb => ?_, hothers, hframe⟩
    · rw [hvd, xorBits_length hlen]
    · rw [hvd, xorBits_get ha hb]
  · exact exec_of_failed (i := .vxor vd vs1 vs2) (if_pos hne)

/-! ### VGET and VLEN -/

theorem vgetBody_of_some {vs1 : VReg} {s : State} {b : Bool}
    (h : (s.vec vs1)[s.opa.toNat]? = some b) :
    vgetBody vs1 s = .done (s.setRes ((BitVec.ofBool b).setWidth 32)) := by
  rw [vgetBody, h]

theorem vgetBody_of_none {vs1 : VReg} {s : State} (h : (s.vec vs1)[s.opa.toNat]? = none) :
    vgetBody vs1 s = .failed .outOfBounds s := by
  rw [vgetBody, h]

/-- Settles O32: the position OPA holds a bit exactly when it is below the length. -/
theorem vgetReadsOneBit : Obligations.VgetReadsOneBit := by
  unfold Obligations.VgetReadsOneBit
  refine ⟨fun vs1 => ?_, fun vs1 s b hb => ?_, fun vs1 s hlen => ?_⟩
  · have hword : encode (.vget vs1) = 0x1B000000#32 ||| ((vregField vs1).setWidth 32 <<< 20) := by
      simp [encode, formatV_eq_or]
    rw [← hword, decode_encode_vget]
  · rw [exec_of_done (i := .vget vs1) (vgetBody_of_some hb)]
    cases b <;> rfl
  · exact exec_of_failed (i := .vget vs1) (vgetBody_of_none (List.getElem?_eq_none hlen))

/-- Settles O33: a length of at most VCAP, which is below 2^16, fits RES without a wrap. -/
theorem vlenReadsLength : Obligations.VlenReadsLength := by
  unfold Obligations.VlenReadsLength
  refine ⟨fun vs1 => ?_, fun vs1 s hlen => ⟨BitVec.ofNat 32 (s.vec vs1).length, ?_, rfl⟩⟩
  · have hword : encode (.vlen vs1) = 0x1C000000#32 ||| ((vregField vs1).setWidth 32 <<< 20) := by
      simp [encode, formatV_eq_or]
    rw [← hword, decode_encode_vlen]
  · have hcap : s.params.vcap.val < 65536 := s.params.vcap.isLt
    rw [BitVec.toNat_ofNat, Nat.mod_eq_of_lt (by omega)]

/-! ### Which command changes a vector (42_bitvector.md R115) -/

/-- The command names r as the VD it writes. -/
def writesVec (i : Instr) (r : VReg) : Prop :=
  i = .vclr r ∨ (∃ nb, i = .vapp r nb) ∨ ∃ a b, i = .vxor r a b

theorem State.vec_of_sameButSymbol {s t : State} (h : s.sameButSymbol t) (r : VReg) :
    t.vec r = s.vec r := by
  obtain ⟨_, _, _, _, _, _, rfl⟩ := h
  cases r <;> rfl

/-- Recording an error changes no vector. -/
@[simp] theorem Ending.settle_vec (e : Ending State) (r : VReg) : e.settle.vec r = e.last.vec r := by
  cases e with
  | done a => rfl
  | failed k a => exact a.raise_vec k r

/-- A command leaves every vector register that it does not name as VD. -/
theorem bodyOf_vec {i : Instr} {r : VReg} (h : ¬ writesVec i r) (s : State) :
    (bodyOf i s).last.vec r = s.vec r := by
  cases i with
  | clear => exact s.clearMatrix_vec r
  | embpat => exact State.vec_of_sameButSymbol (embpatStage_sameButSymbol s) r
  | embfmt => exact State.vec_of_sameButSymbol (embfmtStage_sameButSymbol s) r
  | embdata vs1 => exact State.vec_of_sameButSymbol (embdataStageWith_sameButSymbol _ vs1 s) r
  | encode vs1 => exact State.vec_of_sameButSymbol (encodeBodyWith_sameButSymbol _ vs1 s) r
  | fmtbits => exact State.vec_of_sameButSymbol (fmtbitsBody_sameButSymbol s) r
  | set x y b => exact State.vec_of_sameButSymbol (setBody_sameButSymbol x y b s) r
  | msbpos => exact s.setRes_vec _ r
  | vlen vs1 => exact s.setRes_vec _ r
  | bchrem => rw [bodyOf, bchremBody]; split <;> simp
  | get x y => rw [bodyOf, getBody]; split <;> simp
  | vget vs1 => rw [bodyOf, vgetBody]; split <;> simp
  | vclr vd =>
    have hne : r ≠ vd := by rintro rfl; exact h (.inl rfl)
    exact s.setVec_vec_ne _ hne
  | vapp vd nb =>
    have hne : r ≠ vd := by rintro rfl; exact h (.inr (.inl ⟨nb, rfl⟩))
    rw [bodyOf, vappBody]
    split
    · rfl
    · exact s.setVec_vec_ne _ hne
  | vxor vd vs1 vs2 =>
    have hne : r ≠ vd := by rintro rfl; exact h (.inr (.inr ⟨vs1, vs2, rfl⟩))
    rw [bodyOf, vxorBody]
    split
    · rfl
    · exact s.setVec_vec_ne _ hne

/-- Settles O34: a command that does not name the register as VD leaves it. -/
theorem vectorsReadAreNotChanged : Obligations.VectorsReadAreNotChanged := by
  unfold Obligations.VectorsReadAreNotChanged
  intro i s t r hexec hchanged
  rw [exec_eq_next_iff] at hexec
  subst hexec
  by_contra hnames
  exact hchanged ((Ending.settle_vec _ r).trans (bodyOf_vec hnames s))

end Sys2Proof.Machine

/-! The pattern embedder EMBPAT (43_patterns.md R120 to R127). Its three runs of checked writes are one run
over the 64 distinct cells of the finder region, and the timing cells lie outside that region; so one account
of each of the two runs gives both the embedded patterns and the error that EMBPAT reports. -/

namespace Sys2Proof.Machine

/-! ### The cells of the finder region (43_patterns.md R120 steps 1 and 2) -/

/-- The checked writes of EMBPAT: the finder, the horizontal separator, the vertical separator. -/
def regionWrites : List CellWrite :=
  finderWrites FINDER ++ rowSeparatorWrites ++ columnSeparatorWrites

/-- A run of checked writes is a run of its first part, then of the rest. -/
theorem writeFresh_append (l m : List CellWrite) (g : Grid) :
    writeFresh (l ++ m) g = (writeFresh l g).andThen (writeFresh m) := by
  induction l generalizing g with
  | nil => rfl
  | cons c l ih =>
    obtain ⟨x, y, k⟩ := c
    rw [List.cons_append, writeFresh, writeFresh]
    split
    · rfl
    · exact ih _

/-- EMBPAT's writes are the checked writes of the finder region, then the timing writes. -/
theorem writePatterns_eq (dim : Nat) (g : Grid) :
    writePatterns FINDER dim g =
      (writeFresh regionWrites g).andThen (writeTiming (timingWrites dim)) := by
  rw [writePatterns, regionWrites, writeFresh_append, writeFresh_append]

theorem mem_finderWrites {finder : List (List Bool)} {x y : Nat} {c : Cell} :
    (x, y, c) ∈ finderWrites finder ↔
      x < 7 ∧ y < 7 ∧ c = codeOfBit ((finder.getD y []).getD x false) := by
  simp only [finderWrites, List.mem_flatMap, List.mem_map, List.mem_range, Prod.mk.injEq]
  constructor
  · rintro ⟨_, hy, _, hx, rfl, rfl, rfl⟩
    exact ⟨hx, hy, rfl⟩
  · rintro ⟨hx, hy, rfl⟩
    exact ⟨y, hy, x, hx, rfl, rfl, rfl⟩

theorem mem_rowSeparatorWrites {x y : Nat} {c : Cell} :
    (x, y, c) ∈ rowSeparatorWrites ↔ x < 8 ∧ y = 7 ∧ c = .light := by
  simp [rowSeparatorWrites, eq_comm]

theorem mem_columnSeparatorWrites {x y : Nat} {c : Cell} :
    (x, y, c) ∈ columnSeparatorWrites ↔ x = 7 ∧ y < 7 ∧ c = .light := by
  simp only [columnSeparatorWrites, List.mem_map, List.mem_range, Prod.mk.injEq]
  constructor
  · rintro ⟨_, hy, rfl, rfl, rfl⟩
    exact ⟨rfl, hy, rfl⟩
  · rintro ⟨rfl, hy, rfl⟩
    exact ⟨y, hy, rfl, rfl, rfl⟩

theorem mem_regionWrites {x y : Nat} {c : Cell} :
    (x, y, c) ∈ regionWrites ↔
      (x < 7 ∧ y < 7 ∧ c = codeOfBit ((FINDER.getD y []).getD x false)) ∨
      (x < 8 ∧ y = 7 ∧ c = .light) ∨ (x = 7 ∧ y < 7 ∧ c = .light) := by
  rw [regionWrites, List.mem_append, List.mem_append, mem_finderWrites, mem_rowSeparatorWrites,
    mem_columnSeparatorWrites, or_assoc]

/-- The finder constant is DARK on the outer ring and the centre (43_patterns.md R123). -/
theorem FINDER_getD {x y : Nat} (hx : x < 7) (hy : y < 7) :
    (FINDER.getD y []).getD x false = true ↔ finderDark x y := by
  have hgrid : ∀ x < 7, ∀ y < 7, ((FINDER.getD y []).getD x false = true ↔
      x = 0 ∨ x = 6 ∨ y = 0 ∨ y = 6 ∨ (2 ≤ x ∧ x ≤ 4 ∧ 2 ≤ y ∧ y ≤ 4)) := by decide
  exact hgrid x hx y hy

theorem inFinderRegion_of_mem {c : CellWrite} (hc : c ∈ regionWrites) :
    inFinderRegion c.1 c.2.1 := by
  obtain ⟨x, y, k⟩ := c
  change x ≤ 7 ∧ y ≤ 7
  rcases mem_regionWrites.1 hc with ⟨hx, hy, -⟩ | ⟨hx, hy, -⟩ | ⟨hx, hy, -⟩ <;> omega

/-- The finder and the separators fill the finder region. -/
theorem mem_regionWrites_at {x y : Nat} :
    (x, y) ∈ regionWrites.map CellWrite.at ↔ inFinderRegion x y := by
  rw [List.mem_map]
  constructor
  · rintro ⟨c, hc, ⟨⟩⟩
    exact inFinderRegion_of_mem hc
  · rintro ⟨hx, hy⟩
    have hcell : (x < 7 ∧ y < 7) ∨ (x < 8 ∧ y = 7) ∨ (x = 7 ∧ y < 7) := by omega
    rcases hcell with ⟨hx, hy⟩ | ⟨hx, hy⟩ | ⟨hx, hy⟩
    · exact ⟨(x, y, _), mem_regionWrites.2 (.inl ⟨hx, hy, rfl⟩), rfl⟩
    · exact ⟨(x, y, _), mem_regionWrites.2 (.inr (.inl ⟨hx, hy, rfl⟩)), rfl⟩
    · exact ⟨(x, y, _), mem_regionWrites.2 (.inr (.inr ⟨hx, hy, rfl⟩)), rfl⟩

/-- No cell of the finder region is written twice. -/
theorem regionWrites_nodup : (regionWrites.map CellWrite.at).Nodup := by decide

theorem regionWrites_stored : ∀ c ∈ regionWrites, CellWrite.stored c := by
  intro c hc
  obtain ⟨hx, hy⟩ := inFinderRegion_of_mem hc
  exact ⟨Nat.lt_of_le_of_lt hx (by decide), Nat.lt_of_le_of_lt hy (by decide)⟩

/-! ### The timing cells (43_patterns.md R120 step 3) -/

theorem mem_timingWrites {dim x y : Nat} {c : Cell} :
    (x, y, c) ∈ timingWrites dim ↔
      inTiming dim x y ∧ c = codeOfBit ((x + y + 1) % 2 == 1) := by
  simp only [timingWrites, inTiming, List.mem_flatMap, List.mem_range'_1, List.mem_cons,
    List.not_mem_nil, or_false, Prod.mk.injEq]
  constructor
  · rintro ⟨i, hi, ⟨rfl, rfl, rfl⟩ | ⟨rfl, rfl, rfl⟩⟩
    · exact ⟨.inl ⟨rfl, by omega, by omega⟩, rfl⟩
    · exact ⟨.inr ⟨rfl, by omega, by omega⟩, by rw [Nat.zero_add]⟩
  · rintro ⟨⟨rfl, h8, hdim⟩ | ⟨rfl, h8, hdim⟩, rfl⟩
    · exact ⟨x, by omega, .inl ⟨rfl, rfl, rfl⟩⟩
    · exact ⟨y, by omega, .inr ⟨rfl, rfl, by rw [Nat.zero_add]⟩⟩

theorem inTiming_of_mem {dim : Nat} {c : CellWrite} (hc : c ∈ timingWrites dim) :
    inTiming dim c.1 c.2.1 := (mem_timingWrites.1 hc).1

theorem mem_timingWrites_at {dim x y : Nat} :
    (x, y) ∈ (timingWrites dim).map CellWrite.at ↔ inTiming dim x y := by
  rw [List.mem_map]
  constructor
  · rintro ⟨c, hc, ⟨⟩⟩
    exact inTiming_of_mem hc
  · exact fun h => ⟨(x, y, _), mem_timingWrites.2 ⟨h, rfl⟩, rfl⟩

/-- No timing cell is written twice: an index gives one cell of row 0 and one of column 0, which meet in the
finder region only. -/
theorem timingWrites_nodup (dim : Nat) : ((timingWrites dim).map CellWrite.at).Nodup := by
  rw [timingWrites, List.map_flatMap, List.nodup_flatMap]
  constructor
  · intro i hi
    have h8 : 8 ≤ i := (List.mem_range'_1.1 hi).1
    have hi0 : i ≠ 0 := by omega
    simp [CellWrite.at, hi0]
  · refine (List.pairwise_lt_range' (s := 8)).imp fun {i j} hij => ?_
    have hj0 : j ≠ 0 := Nat.ne_zero_of_lt hij
    simp [Function.onFun, CellWrite.at, hj0, hij.ne']

theorem timingWrites_stored (s : State) : ∀ c ∈ timingWrites s.side, CellWrite.stored c := by
  intro c hc
  have hdim : s.side ≤ Config.maxSide := Nat.le_of_lt_succ s.dim.isLt
  have hmax : 0 < Config.maxSide := by decide
  rcases inTiming_of_mem hc with ⟨hy, -, hx⟩ | ⟨hx, -, hy⟩ <;> constructor <;> omega

theorem not_inFinderRegion_of_inTiming {dim x y : Nat} (h : inTiming dim x y) :
    ¬ inFinderRegion x y := by
  rintro ⟨hx, hy⟩
  rcases h with ⟨-, h8, -⟩ | ⟨-, h8, -⟩ <;> omega

/-! ### How EMBPAT ends -/

/-- EMBPAT's body on a matrix that is large enough, as its two runs of writes. -/
theorem embpatStage_runs {s : State} (h : 8 ≤ s.dim.toNat) :
    embpatStage s = ((writeFresh regionWrites s.grid).andThen
      (writeTiming (timingWrites s.side))).map s.setGrid := by
  rw [embpatStage_eq s (Nat.not_lt.2 h), writePatterns_eq]

/-- On an EMPTY finder region the checked writes are all made and stay inside it. -/
theorem writeFresh_regionWrites {g : Grid}
    (hempty : ∀ x y, inFinderRegion x y → g.cell x y = .empty) :
    ∃ g', writeFresh regionWrites g = .done g' ∧
      (∀ c ∈ regionWrites, g'.cell c.1 c.2.1 = c.2.2) ∧
      ∀ x y, ¬ inFinderRegion x y → g'.cell x y = g.cell x y := by
  obtain ⟨g', hrun, hcells, hrest⟩ := writeFresh_done regionWrites g regionWrites_stored
    regionWrites_nodup fun c hc => hempty _ _ (inFinderRegion_of_mem hc)
  exact ⟨g', hrun, hcells, fun x y hxy => hrest x y (mt mem_regionWrites_at.1 hxy)⟩

/-- A non-empty cell of the finder region stops EMBPAT (43_patterns.md R122). -/
theorem embpatStage_structuralOverwrite {s : State} (h8 : 8 ≤ s.dim.toNat) {x y : Nat}
    (hxy : inFinderRegion x y) (hne : s.grid.cell x y ≠ .empty) :
    ∃ g, embpatStage s = .failed .structuralOverwrite (s.setGrid g) := by
  obtain ⟨c, hc, ⟨⟩⟩ := List.mem_map.1 (mem_regionWrites_at.2 hxy)
  obtain ⟨g, hrun⟩ := writeFresh_failed regionWrites s.grid regionWrites_nodup ⟨c, hc, hne⟩
  exact ⟨g, by rw [embpatStage_runs h8, hrun]; rfl⟩

section EmptyRegion

variable {s : State} (h8 : 8 ≤ s.dim.toNat)
  (hempty : ∀ x y, inFinderRegion x y → s.grid.cell x y = .empty)
include h8 hempty

/-- An INVALID timing cell stops EMBPAT once the finder region is written (43_patterns.md R124). -/
theorem embpatStage_postconditionViolation {x y : Nat} (hxy : inTiming s.dim.toNat x y)
    (hinv : s.grid.cell x y = .invalid) :
    ∃ g, embpatStage s = .failed .postconditionViolation (s.setGrid g) := by
  obtain ⟨g₁, hregion, -, hframe⟩ := writeFresh_regionWrites hempty
  have hinv₁ : g₁.cell x y = .invalid :=
    (hframe x y (not_inFinderRegion_of_inTiming hxy)).trans hinv
  obtain ⟨c, hc, ⟨⟩⟩ := List.mem_map.1 (mem_timingWrites_at.2 hxy)
  obtain ⟨g, htiming⟩ := writeTiming_failed _ g₁ (timingWrites_nodup _) ⟨c, hc, hinv₁⟩
  refine ⟨g, ?_⟩
  rw [embpatStage_runs h8, hregion, Ending.andThen_done, State.side, htiming, Ending.map_failed]

/-- With no INVALID timing cell EMBPAT is done: the finder region holds what it wrote, the timing cells
their bit where they were EMPTY, and every other cell is as it was. -/
theorem embpatStage_done
    (hvalid : ∀ x y, inTiming s.dim.toNat x y → s.grid.cell x y ≠ .invalid) :
    ∃ g, embpatStage s = .done (s.setGrid g) ∧
      (∀ x y c, (x, y, c) ∈ regionWrites → g.cell x y = c) ∧
      (∀ x y, inTiming s.dim.toNat x y → g.cell x y =
        if s.grid.cell x y = .empty then codeOfBit ((x + y + 1) % 2 == 1) else s.grid.cell x y) ∧
      ∀ x y, ¬ inFinderRegion x y → ¬ inTiming s.dim.toNat x y → g.cell x y = s.grid.cell x y := by
  obtain ⟨g₁, hregion, hcells₁, hframe₁⟩ := writeFresh_regionWrites hempty
  have hkept : ∀ x y, inTiming s.dim.toNat x y → g₁.cell x y = s.grid.cell x y :=
    fun x y h => hframe₁ x y (not_inFinderRegion_of_inTiming h)
  obtain ⟨g, htiming, hcells, hframe⟩ := writeTiming_done (timingWrites s.side) g₁
    (timingWrites_stored s) (timingWrites_nodup _) fun c hc => by
      rw [hkept _ _ (inTiming_of_mem hc)]
      exact hvalid _ _ (inTiming_of_mem hc)
  have hframe' : ∀ x y, ¬ inTiming s.dim.toNat x y → g.cell x y = g₁.cell x y :=
    fun x y h => hframe x y (mt mem_timingWrites_at.1 h)
  refine ⟨g, ?_, fun x y c hc => ?_, fun x y h => ?_, fun x y hr ht => ?_⟩
  · rw [embpatStage_runs h8, hregion, Ending.andThen_done, htiming, Ending.map_done]
  · have hnot : ¬ inTiming s.dim.toNat x y :=
      fun h => not_inFinderRegion_of_inTiming h (inFinderRegion_of_mem hc)
    exact (hframe' x y hnot).trans (hcells₁ _ hc)
  · rw [← hkept x y h]
    exact hcells (x, y, _) (mem_timingWrites.2 ⟨h, rfl⟩)
  · exact (hframe' x y ht).trans (hframe₁ x y hr)

end EmptyRegion

/-- Settles O35: each cell of the patterns is among the writes, with the code the statement gives it. -/
theorem embpatEmbedsPatterns : Obligations.EmbpatEmbedsPatterns := by
  unfold Obligations.EmbpatEmbedsPatterns
  refine ⟨by decide, fun s h8 hempty hvalid => ?_⟩
  obtain ⟨g, hdone, hregion, htiming, hframe⟩ := embpatStage_done h8 hempty hvalid
  refine ⟨g, exec_of_done (i := .embpat) hdone, fun x y hx hy hdark => ?_, fun x y hx hy hlight => ?_,
    fun x hx => ?_, fun y hy => ?_, fun x y ht he => ?_, fun x y ht he => ?_, hframe⟩
  · refine hregion x y _ (mem_regionWrites.2 (.inl ⟨hx, hy, ?_⟩))
    rw [(FINDER_getD hx hy).2 hdark]
    rfl
  · refine hregion x y _ (mem_regionWrites.2 (.inl ⟨hx, hy, ?_⟩))
    rw [Bool.eq_false_of_not_eq_true (mt (FINDER_getD hx hy).1 hlight)]
    rfl
  · exact hregion x 7 _ (mem_regionWrites.2 (.inr (.inl ⟨hx, rfl, rfl⟩)))
  · exact hregion 7 y _ (mem_regionWrites.2 (.inr (.inr ⟨rfl, hy, rfl⟩)))
  · rw [htiming x y ht, if_pos he, codeOfBit]
    simp only [beq_iff_eq]
  · rw [htiming x y ht, if_neg he]

/-- Settles O36: the three cases are how EMBPAT's body fails. -/
theorem embpatErrorOrder : Obligations.EmbpatErrorOrder := by
  unfold Obligations.EmbpatErrorOrder
  refine ⟨fun s hsmall => ?_, fun s h8 ⟨x, y, hxy, hne⟩ => ?_,
    fun s h8 hempty ⟨x, y, hxy, hinv⟩ => ?_⟩
  · exact exec_of_failed (i := .embpat) (embpatStage_small s hsmall)
  · obtain ⟨g, hfail⟩ := embpatStage_structuralOverwrite h8 hxy hne
    exact ⟨g, exec_of_failed (i := .embpat) hfail⟩
  · obtain ⟨g, hfail⟩ := embpatStage_postconditionViolation h8 hempty hxy hinv
    exact ⟨g, exec_of_failed (i := .embpat) hfail⟩

/-! ### What EMBPAT reads (43_patterns.md R121) -/

/-- Settles O37: DIM decides the size check, and DIM and the cells decide how the writes end; STATUS is
as it was unless an error is raised. -/
theorem embpatReadsOnlyDimAndCells : Obligations.EmbpatReadsOnlyDimAndCells := by
  unfold Obligations.EmbpatReadsOnlyDimAndCells
  intro s s' t t' hdim hgrid herr herr' hcode ht ht'
  have hside : s.side = s'.side := congrArg BitVec.toNat hdim
  rw [exec_eq_next_iff, bodyOf] at ht ht'
  subst ht ht'
  by_cases h : s.side < 8
  · rw [embpatStage_small s h, embpatStage_small s' (hside ▸ h)]
    exact ⟨hgrid, rfl, rfl⟩
  · rw [embpatStage_eq s h, embpatStage_eq s' (hside ▸ h), ← hside, ← hgrid]
    cases writePatterns FINDER s.side s.grid with
    | done g => exact ⟨rfl, herr.trans herr'.symm, hcode⟩
    | failed e g => exact ⟨rfl, rfl, rfl⟩

/-! ### Which error a command raises -/

/-- The command or stage stops at the error k. -/
def Ending.raises {α : Type} (r : Ending α) (k : ErrorKind) : Prop := ∃ a, r = .failed k a

@[simp] theorem Ending.not_raises_done {α : Type} (a : α) (k : ErrorKind) :
    ¬ (Ending.done a).raises k := by rintro ⟨b, ⟨⟩⟩

@[simp] theorem Ending.raises_failed_iff {α : Type} {e k : ErrorKind} {a : α} :
    (Ending.failed e a).raises k ↔ e = k := by
  constructor
  · rintro ⟨b, ⟨⟩⟩
    rfl
  · rintro rfl
    exact ⟨a, rfl⟩

/-- Two stages raise no error that neither of them raises. -/
theorem Ending.not_raises_andThen {α : Type} {r : Ending α} {f : α → Ending α} {k : ErrorKind}
    (hr : ¬ r.raises k) (hf : ∀ a, ¬ (f a).raises k) : ¬ (r.andThen f).raises k := by
  cases r with
  | done a => exact hf a
  | failed e a => exact hr

/-- Computing the format field fails with the mask, the table or the length check (45_format.md R140). -/
theorem State.formatField_error {s : State} {e : ErrorKind} (h : s.formatField = .error e) :
    e = .invalidMaskPattern ∨ e = .invalidVersionLevelCombination ∨ e = .postconditionViolation := by
  rw [State.formatField, computeFormatBits] at h
  split at h
  · cases h
    exact .inl rfl
  · split at h
    · cases h
      exact .inr (.inl rfl)
    · dsimp only at h
      split at h
      · cases h
        exact .inr (.inr rfl)
      · cases h

/-! ### MalformedConstantPattern (43_patterns.md R126) -/

theorem State.formatField_ne_malformed {s : State} {e : ErrorKind} (h : s.formatField = .error e) :
    e ≠ .malformedConstantPattern := by
  rcases State.formatField_error h with rfl | rfl | rfl <;> decide

theorem embpatStage_not_malformed (s : State) :
    ¬ (embpatStage s).raises .malformedConstantPattern := by
  rcases embpatStage_cases s with ⟨g, h⟩ | h | ⟨g, h⟩ | ⟨g, h⟩ <;> rw [h] <;> simp

theorem embfmtStage_not_malformed (s : State) :
    ¬ (embfmtStage s).raises .malformedConstantPattern := by
  rcases embfmtStage_cases s with ⟨f, -, -, h⟩ | ⟨e, he, h⟩ | ⟨-, -, h⟩ <;> rw [h]
  · simp
  · simpa using State.formatField_ne_malformed he
  · simp

theorem embdataStageWith_not_malformed (fn : MaskFn) (vs1 : VReg) (s : State) :
    ¬ (embdataStageWith fn vs1 s).raises .malformedConstantPattern := by
  rcases embdataStageWith_cases fn vs1 s with h | ⟨g, n, ⟨-, h⟩ | ⟨-, h⟩⟩ <;> rw [h] <;> simp

theorem fmtbitsBody_not_malformed (s : State) :
    ¬ (fmtbitsBody s).raises .malformedConstantPattern := by
  rcases fmtbitsBody_cases s with ⟨f, -, h⟩ | ⟨e, he, h⟩ <;> rw [h]
  · simp
  · simpa using State.formatField_ne_malformed he

/-- No command raises MalformedConstantPattern: of the stages only EMBPAT's could, and the finder
constant passes its check. -/
theorem bodyOf_not_malformed (i : Instr) (s : State) :
    ¬ (bodyOf i s).raises .malformedConstantPattern := by
  cases i with
  | embpat => exact embpatStage_not_malformed s
  | embfmt => exact embfmtStage_not_malformed s
  | embdata vs1 => exact embdataStageWith_not_malformed _ vs1 s
  | encode vs1 =>
    exact Ending.not_raises_andThen
      (Ending.not_raises_andThen (embpatStage_not_malformed _) embfmtStage_not_malformed)
      (embdataStageWith_not_malformed _ vs1)
  | fmtbits => exact fmtbitsBody_not_malformed s
  | clear | msbpos | vclr vd | vlen vs1 => exact Ending.not_raises_done _ _
  | bchrem => rw [bodyOf, bchremBody]; split <;> simp
  | get x y => rw [bodyOf, getBody]; split <;> simp
  | set x y b => rw [bodyOf, setBody]; split <;> simp
  | vapp vd nb => rw [bodyOf, vappBody]; split <;> simp
  | vxor vd vs1 vs2 => rw [bodyOf, vxorBody]; split <;> simp
  | vget vs1 => rw [bodyOf, vgetBody]; split <;> simp

/-- A command that leaves an error's code in ECODE raised that error, or found the code there. -/
theorem exec_ecode_eq_code {i : Instr} {s t : State} {k : ErrorKind} (h : exec i s = .next t)
    (hcode : t.ecode = k.code) : (bodyOf i s).raises k ∨ s.ecode = k.code := by
  have hstatus := bodyOf_status i s
  rw [exec_eq_next_iff] at h
  subst h
  cases hr : bodyOf i s with
  | failed e u =>
    rw [hr] at hcode
    exact .inl (Ending.raises_failed_iff.2 (ErrorKind.code_injective hcode))
  | done u =>
    rw [hr] at hstatus hcode
    rcases hstatus with ⟨-, hkeep⟩ | ⟨-, -, hclear⟩
    · exact .inr (hkeep.symm.trans hcode)
    · have hzero : k.code = 0#4 := hcode.symm.trans hclear
      have hpos := k.code_range.1
      rw [hzero] at hpos
      exact absurd hpos (by decide)

/-- The shape check fails on a constant that is not 7 rows of 7. -/
theorem sevenBySeven_eq_false {finder : List (List Bool)}
    (h : finder.length ≠ 7 ∨ ∃ row ∈ finder, row.length ≠ 7) : sevenBySeven finder = false := by
  rw [← Bool.not_eq_true, sevenBySeven, Bool.and_eq_true, beq_iff_eq, List.all_eq_true]
  rintro ⟨hlen, hrows⟩
  rcases h with h | ⟨row, hrow, h⟩
  · exact h hlen
  · exact h (beq_iff_eq.1 (hrows row hrow))

/-- Settles O38: code 4 is this error's alone, so a command that leaves it raised the error or found the
code; and the check of a substituted constant comes before the first write. -/
theorem malformedPatternOnlyIfSubstituted : Obligations.MalformedPatternOnlyIfSubstituted := by
  unfold Obligations.MalformedPatternOnlyIfSubstituted
  refine ⟨fun i s t hexec hcode => ?_, fun finder s h8 hshape => ?_⟩
  · exact (exec_ecode_eq_code (k := .malformedConstantPattern) hexec hcode).resolve_left
      (bodyOf_not_malformed i s)
  · rw [embpatStageWith, State.side, if_neg (Nat.not_lt.2 h8), if_pos (sevenBySeven_eq_false hshape)]

end Sys2Proof.Machine

/-! The polynomial remainder engine, MSBPOS and BCHREM (44_bch.md R130 to R134). A natural is read as a
polynomial over GF(2), where exclusive-or is addition and a shift is multiplication by a power of x. The loop
keeps the remainder and lowers the top bit, so where it ends is the remainder itself. -/

namespace Sys2Proof.Machine

/-! ### Naturals as polynomials over GF(2) (44_bch.md R132) -/

theorem coeff_gf2 (n i : Nat) : (gf2 n).coeff i = if n.testBit i then 1 else 0 := by
  have hterm : ∀ j, (if n.testBit j then (Polynomial.X : Polynomial (ZMod 2)) ^ j else 0).coeff i =
      if i = j then (if n.testBit j then 1 else 0) else 0 := fun j => by
    by_cases hj : n.testBit j <;> simp [hj, Polynomial.coeff_X_pow]
  rw [gf2, Polynomial.finsetSum_coeff, Finset.sum_congr rfl fun j _ => hterm j, Finset.sum_ite_eq]
  by_cases hi : i ∈ Finset.range (n.log2 + 1)
  · rw [if_pos hi]
  · have hlog : n.log2 + 1 ≤ i := by simpa using hi
    have hlt : n < 2 ^ i := Nat.lt_log2_self.trans_le (Nat.pow_le_pow_right (by decide) hlog)
    simp [hi, Nat.testBit_lt_two_pow hlt]

theorem gf2_zero : gf2 0 = 0 := by
  ext i
  simp [coeff_gf2]

theorem gf2_injective : Function.Injective gf2 := fun a b h => by
  refine Nat.eq_of_testBit_eq fun i => ?_
  have hbit : ∀ n : Nat, (gf2 n).coeff i = 1 ↔ n.testBit i = true := fun n => by simp [coeff_gf2]
  rw [Bool.eq_iff_iff, ← hbit a, ← hbit b, h]

/-- Addition over GF(2) is exclusive-or: there is no carry. -/
theorem gf2_xor (a b : Nat) : gf2 (a ^^^ b) = gf2 a + gf2 b := by
  ext i
  rw [Polynomial.coeff_add, coeff_gf2, coeff_gf2, coeff_gf2, Nat.testBit_xor]
  cases a.testBit i <;> cases b.testBit i <;> decide

theorem gf2_shiftLeft (n k : Nat) : gf2 (n <<< k) = gf2 n * Polynomial.X ^ k := by
  ext i
  rw [Polynomial.coeff_mul_X_pow', coeff_gf2, coeff_gf2, Nat.testBit_shiftLeft]
  by_cases hk : k ≤ i <;> simp [hk]

theorem degree_gf2_lt {n k : Nat} (h : n < 2 ^ k) : (gf2 n).degree < k := by
  rw [Polynomial.degree_lt_iff_coeff_zero]
  intro i hi
  simp [coeff_gf2, Nat.testBit_lt_two_pow (h.trans_le (Nat.pow_le_pow_right (by decide) hi))]

/-- The degree of a polynomial other than 0 is at least its highest bit's index. -/
theorem msbpos_pred_le_degree_gf2 {n : Nat} (h : n ≠ 0) : ((msbpos n - 1 : Nat) : WithBot Nat) ≤
    (gf2 n).degree :=
  Polynomial.le_degree_of_ne_zero (by simp [coeff_gf2, testBit_msbpos h])

/-! ### The loop (44_bch.md R131) -/

theorem msbpos_pos {v : Nat} (h : v ≠ 0) : 0 < msbpos v := by
  rw [msbpos, if_neg h]
  exact Nat.succ_pos _

/-- The shifted polynomial's top bit falls on t's, and no other bit of the two is as high: their
exclusive-or has a lower top bit. -/
theorem msbpos_reduceStep_lt {poly t : Nat} (hpoly : poly ≠ 0) (ht : msbpos poly ≤ msbpos t) :
    msbpos (t ^^^ (poly <<< (msbpos t - msbpos poly))) < msbpos t := by
  have hm : 0 < msbpos poly := msbpos_pos hpoly
  have ht0 : t ≠ 0 := by rintro rfl; rw [msbpos_zero] at ht; omega
  rw [Nat.lt_iff_le_pred (by omega), msbpos_le_iff]
  refine Nat.lt_pow_two_of_testBit _ fun i hi => ?_
  rw [Nat.testBit_xor, Nat.testBit_shiftLeft, decide_eq_true (by omega), Bool.true_and]
  rcases Nat.lt_or_ge i (msbpos t) with hlt | hge
  · have hit : i = msbpos t - 1 := by omega
    have hip : i - (msbpos t - msbpos poly) = msbpos poly - 1 := by omega
    rw [hip, hit, testBit_msbpos ht0, testBit_msbpos hpoly, Bool.xor_self]
  · rw [testBit_of_msbpos_le hge, testBit_of_msbpos_le (by omega), Bool.xor_self]

/-- The loop stops once msbpos(t) is below m. -/
theorem reduceLoop_of_lt {poly m t : Nat} (h : msbpos t < m) (fuel : Nat) :
    reduceLoop poly m fuel t = t := by
  cases fuel with
  | zero => rfl
  | succ fuel => rw [reduceLoop, if_neg (Nat.not_le.2 h)]

/-- Each step adds a multiple of the polynomial, which leaves the remainder. -/
theorem gf2_reduceLoop_mod (poly m fuel t : Nat) :
    gf2 (reduceLoop poly m fuel t) % gf2 poly = gf2 t % gf2 poly := by
  induction fuel generalizing t with
  | zero => rfl
  | succ fuel ih =>
    rw [reduceLoop]
    split
    · rw [ih, gf2_xor, gf2_shiftLeft, Polynomial.add_mod,
        EuclideanDomain.mod_eq_zero.2 (dvd_mul_right _ _), add_zero]
    · rfl

/-- Each step lowers msbpos(t), so a bound above msbpos(t) - m lets the loop end. -/
theorem msbpos_reduceLoop_lt {poly fuel t : Nat} (hpoly : poly ≠ 0)
    (h : msbpos t < msbpos poly + fuel) :
    msbpos (reduceLoop poly (msbpos poly) fuel t) < msbpos poly := by
  induction fuel generalizing t with
  | zero => exact h
  | succ fuel ih =>
    rw [reduceLoop]
    split
    case isTrue hle =>
      have := msbpos_reduceStep_lt hpoly hle
      exact ih (by omega)
    case isFalse hlt => exact Nat.not_le.1 hlt

/-- A larger bound continues the loop from where the smaller one left it. -/
theorem reduceLoop_add (poly m a b t : Nat) :
    reduceLoop poly m (a + b) t = reduceLoop poly m b (reduceLoop poly m a t) := by
  induction a generalizing t with
  | zero => rw [Nat.zero_add]; rfl
  | succ a ih =>
    rw [Nat.succ_add, reduceLoop, reduceLoop]
    split
    case isTrue hle => exact ih _
    case isFalse hlt => exact (reduceLoop_of_lt (Nat.not_le.1 hlt) b).symm

/-- The loop starts with the value shifted by m - 1, so msbpos(value) iterations are enough. -/
theorem msbpos_shiftLeft_lt {poly : Nat} (hpoly : poly ≠ 0) (value : Nat) :
    msbpos (value <<< (msbpos poly - 1)) < msbpos poly + msbpos value := by
  have hm : 0 < msbpos poly := msbpos_pos hpoly
  have hvalue : value < 2 ^ msbpos value := (msbpos_le_iff _ _).1 le_rfl
  have hle : msbpos (value <<< (msbpos poly - 1)) ≤ msbpos value + (msbpos poly - 1) := by
    rw [msbpos_le_iff, Nat.shiftLeft_eq, pow_add]
    exact Nat.mul_lt_mul_of_pos_right hvalue (by positivity)
  omega

/-! ### The remainder (44_bch.md R132) -/

theorem msbpos_bchRemainder_lt {poly : Nat} (hpoly : poly ≠ 0) (value : Nat) :
    msbpos (bchRemainder value poly) < msbpos poly :=
  msbpos_reduceLoop_lt hpoly (msbpos_shiftLeft_lt hpoly value)

theorem bchRemainder_lt {poly : Nat} (hpoly : poly ≠ 0) (value : Nat) :
    bchRemainder value poly < 2 ^ (msbpos poly - 1) :=
  (msbpos_le_iff _ _).1 (Nat.le_pred_of_lt (msbpos_bchRemainder_lt hpoly value))

/-- The loop keeps the remainder, and its end has a lower degree than the polynomial: it is its own
remainder. -/
theorem gf2_bchRemainder {poly : Nat} (hpoly : poly ≠ 0) (value : Nat) :
    gf2 (bchRemainder value poly) =
      (gf2 value * Polynomial.X ^ (msbpos poly - 1)) % gf2 poly := by
  have hdegree : (gf2 (bchRemainder value poly)).degree < (gf2 poly).degree :=
    (degree_gf2_lt (bchRemainder_lt hpoly value)).trans_le (msbpos_pred_le_degree_gf2 hpoly)
  have hne : gf2 poly ≠ 0 := gf2_zero ▸ gf2_injective.ne hpoly
  calc gf2 (bchRemainder value poly)
      = gf2 (bchRemainder value poly) % gf2 poly := ((Polynomial.mod_eq_self_iff hne).2 hdegree).symm
    _ = gf2 (value <<< (msbpos poly - 1)) % gf2 poly := gf2_reduceLoop_mod _ _ _ _
    _ = _ := by rw [gf2_shiftLeft]

theorem reduceLoop_eq_bchRemainder {value poly fuel : Nat} (hpoly : poly ≠ 0)
    (h : msbpos value ≤ fuel) :
    reduceLoop poly (msbpos poly) fuel (value <<< (msbpos poly - 1)) = bchRemainder value poly := by
  obtain ⟨extra, rfl⟩ := Nat.exists_eq_add_of_le h
  rw [reduceLoop_add]
  exact reduceLoop_of_lt (msbpos_bchRemainder_lt hpoly value) extra

/-- Settles O40: the loop keeps the remainder, lowers the top bit at each step, and has ended within the
model's bound. -/
theorem bchRemainderIsPolynomialRemainder : Obligations.BchRemainderIsPolynomialRemainder := by
  unfold Obligations.BchRemainderIsPolynomialRemainder
  exact fun value poly hpoly => ⟨gf2_bchRemainder hpoly value, bchRemainder_lt hpoly value,
    fun _ ht => msbpos_reduceStep_lt hpoly ht, fun _ hfuel => reduceLoop_eq_bchRemainder hpoly hfuel⟩

/-! ### MSBPOS and BCHREM -/

/-- A register's highest bit has a position of at most 32. -/
theorem msbpos_toNat_le (w : Word) : msbpos w.toNat ≤ 32 := (msbpos_le_iff _ _).2 w.isLt

/-- Settles O39: the position is at most 32, so RES holds it without a wrap. -/
theorem msbposFindsHighestBit : Obligations.MsbposFindsHighestBit := by
  unfold Obligations.MsbposFindsHighestBit
  refine ⟨by decide, fun s => ⟨BitVec.ofNat 32 (msbpos s.opa.toNat), rfl, fun h0 => ?_, fun h0 => ?_⟩⟩
  · rw [h0]
    rfl
  · have hle : msbpos s.opa.toNat ≤ 32 := msbpos_toNat_le s.opa
    have hne : s.opa.toNat ≠ 0 := BitVec.toNat_ne.1 h0
    rw [BitVec.toNat_ofNat, Nat.mod_eq_of_lt (by omega)]
    exact ⟨msbpos_pos hne, hle, testBit_msbpos hne, fun j hj => testBit_of_msbpos_le hj, msbpos_bounds hne⟩

theorem bchRemainder_zero_left (poly : Nat) : bchRemainder 0 poly = 0 := Nat.zero_shiftLeft _

/-- The remainder by 1 is below 2^0. -/
theorem bchRemainder_one_right (value : Nat) : bchRemainder value 1 = 0 :=
  Nat.lt_one_iff.1 (bchRemainder_lt one_ne_zero value)

/-- The polynomial divides every multiple of itself. -/
theorem bchRemainder_self {poly : Nat} (hpoly : poly ≠ 0) : bchRemainder poly poly = 0 := by
  apply gf2_injective
  rw [gf2_bchRemainder hpoly, gf2_zero]
  exact EuclideanDomain.mod_eq_zero.2 (dvd_mul_right _ _)

/-- Settles O41: the remainder is below 2^(m-1), which is at most 2^31, so RES holds it without a wrap. -/
theorem bchremWritesRemainder : Obligations.BchremWritesRemainder := by
  unfold Obligations.BchremWritesRemainder
  refine ⟨by decide, fun s h0 => ⟨BitVec.ofNat 32 (bchRemainder s.opa.toNat s.opb.toNat),
    exec_of_done (i := .bchrem) (if_neg h0), ?_⟩, fun s h0 => exec_of_failed (i := .bchrem) (if_pos h0)⟩
  have hne : s.opb.toNat ≠ 0 := BitVec.toNat_ne.1 h0
  have hlt : bchRemainder s.opa.toNat s.opb.toNat < 2 ^ 31 :=
    (bchRemainder_lt hne _).trans_le
      (Nat.pow_le_pow_right (by decide) (Nat.sub_le_sub_right (msbpos_toNat_le s.opb) 1))
  have hr : (BitVec.ofNat 32 (bchRemainder s.opa.toNat s.opb.toNat)).toNat =
      bchRemainder s.opa.toNat s.opb.toNat := by
    rw [BitVec.toNat_ofNat, Nat.mod_eq_of_lt (by omega)]
  refine ⟨hr, ?_, ?_⟩
  · rw [BitVec.getLsbD, hr, Nat.testBit_lt_two_pow hlt]
  · rintro (h | h | h)
    · rw [h]
      exact congrArg (BitVec.ofNat 32) (bchRemainder_zero_left _)
    · rw [h]
      exact congrArg (BitVec.ofNat 32) (bchRemainder_one_right _)
    · rw [h, bchRemainder_self hne]

end Sys2Proof.Machine

/-! The format information encoder, FMTBITS and EMBFMT (45_format.md R140 to R146). A bit vector is its value
as an integer: an append shifts and ors, the exclusive-or of vectors is that of their values. So the vector's
value is R141's integer form, and how the encoder ends is one case split, on the mask and on SYMTAB. -/

namespace Sys2Proof.Machine

/-! ### A bit vector's value (00_scope.md R15) -/

@[simp] theorem bitsValue_nil : bitsValue [] = 0 := rfl

theorem bitsValue_concat (bv : List Bool) (b : Bool) :
    bitsValue (bv ++ [b]) = Nat.bit b (bitsValue bv) := by
  rw [bitsValue, List.foldl_append, Nat.bit_val]
  rfl

/-- Position 0 is the most significant bit. -/
theorem testBit_bitsValue (bv : List Bool) (i : Nat) :
    (bitsValue bv).testBit i = (bv.reverse[i]?).getD false := by
  induction bv using List.reverseRecOn generalizing i with
  | nil => simp
  | append_singleton bv b ih =>
    rw [bitsValue_concat, List.reverse_concat]
    cases i with
    | zero => rw [Nat.testBit_bit_zero]; rfl
    | succ i => rw [Nat.testBit_bit_succ, ih]; rfl

/-- The low-order bits from the last one on are the bits of the number from bit 0 on. -/
theorem lowBits_reverse_getElem? (w : Nat) {n i : Nat} (h : i < n) :
    (lowBits n w).reverse[i]? = some (w.testBit i) := by
  rw [List.getElem?_reverse (by simpa using h), lowBits_length, lowBits, List.getElem?_map,
    List.getElem?_range (by omega), Option.map_some, show n - 1 - (n - 1 - i) = i by omega]

/-- Appending n bits shifts the value by n and puts them below it (42_bitvector.md R111). -/
theorem bitsValue_appendBits (bv : List Bool) {w n : Nat} (hw : w < 2 ^ n) :
    bitsValue (appendBits bv w n) = (bitsValue bv <<< n) ||| w := by
  refine Nat.eq_of_testBit_eq fun i => ?_
  rw [testBit_bitsValue, appendBits, List.reverse_append, Nat.testBit_or, Nat.testBit_shiftLeft]
  rcases Nat.lt_or_ge i n with hlt | hge
  · rw [List.getElem?_append_left (by simpa using hlt), lowBits_reverse_getElem? w hlt,
      decide_eq_false (Nat.not_le.2 hlt), Bool.false_and, Bool.false_or, Option.getD_some]
  · have hwi : w.testBit i = false :=
      Nat.testBit_lt_two_pow (hw.trans_le (Nat.pow_le_pow_right (by decide) hge))
    rw [List.getElem?_append_right (by simpa using hge), List.length_reverse, lowBits_length,
      testBit_bitsValue, decide_eq_true hge, hwi, Bool.true_and, Bool.or_false]

/-- The exclusive-or of two vectors of one length has the exclusive-or of their values (42_bitvector.md
R112). -/
theorem bitsValue_xorBits {a b : List Bool} (h : a.length = b.length) :
    bitsValue (xorBits a b) = bitsValue a ^^^ bitsValue b := by
  refine Nat.eq_of_testBit_eq fun i => ?_
  rw [Nat.testBit_xor, testBit_bitsValue, testBit_bitsValue, testBit_bitsValue, xorBits,
    List.reverse_zipWith h, List.getElem?_zipWith]
  rcases Nat.lt_or_ge i a.length with hlt | hge
  · rw [List.getElem?_eq_getElem (by simpa using hlt), List.getElem?_eq_getElem (by simpa [← h] using hlt)]
    rfl
  · rw [List.getElem?_eq_none (by simpa using hge), List.getElem?_eq_none (by simpa [← h] using hge)]
    rfl

/-! ### The field (45_format.md R141) -/

/-- The 5 data bits and their 10 check bits, before the mask's exclusive-or (45_format.md R140). -/
def formatCode (d : Nat) : Nat := (d <<< 10) ||| bchRemainder d 0x537

theorem formatWord_eq (d : Nat) : formatWord d = formatCode d ^^^ 0x4445 := rfl

/-- The generator has degree 10, so the check bits are 10. -/
theorem bchRemainder_fmt_lt (d : Nat) : bchRemainder d 0x537 < 2 ^ 10 :=
  bchRemainder_lt (poly := 0x537) (by decide) d

theorem formatCode_shiftRight (d : Nat) : formatCode d >>> 10 = d := by
  rw [formatCode, Nat.shiftRight_or_distrib, Nat.shiftLeft_shiftRight,
    Nat.shiftRight_eq_zero _ _ (bchRemainder_fmt_lt d), Nat.or_zero]

theorem formatCode_and (d : Nat) : formatCode d &&& 0x3FF = bchRemainder d 0x537 := by
  have hd : (d <<< 10) % 2 ^ 10 = 0 := by rw [Nat.shiftLeft_eq, Nat.mul_mod_left]
  rw [show (0x3FF : Nat) = 2 ^ 10 - 1 from rfl, Nat.and_two_pow_sub_one_eq_mod, formatCode,
    Nat.or_mod_two_pow, hd, Nat.zero_or, Nat.mod_eq_of_lt (bchRemainder_fmt_lt d)]

theorem formatCode_lt {d : Nat} (hd : d < 2 ^ 5) : formatCode d < 2 ^ 15 := by
  have hr : bchRemainder d 0x537 < 2 ^ 15 := (bchRemainder_fmt_lt d).trans (by decide)
  exact Nat.or_lt_two_pow (by rw [Nat.shiftLeft_eq]; omega) hr

theorem formatWord_lt {d : Nat} (hd : d < 2 ^ 5) : formatWord d < 2 ^ 15 :=
  Nat.xor_lt_two_pow (formatCode_lt hd) (by decide)

/-- The mask is no code word: its first 5 bits are 10001, whose check bits are not its last 10. -/
theorem formatCode_ne_mask (d : Nat) : formatCode d ≠ 0x4445 := by
  intro h
  have hd : d = 0x11 := (formatCode_shiftRight d).symm.trans (by rw [h]; decide)
  rw [hd] at h
  exact absurd h (by decide)

theorem formatWord_ne_zero (d : Nat) : formatWord d ≠ 0 :=
  fun h => formatCode_ne_mask d (Nat.eq_of_xor_eq_zero h)

theorem formatVector_length (d : Nat) : (formatVector d).length = 15 := by
  rw [formatVector, xorBits_length] <;> simp

/-- The vector's value is the integer form (45_format.md R141). -/
theorem bitsValue_formatVector {d : Nat} (hd : d < 2 ^ 5) :
    bitsValue (formatVector d) = formatWord d := by
  have hr : bchRemainder d POLY_FMT < 2 ^ 10 := bchRemainder_fmt_lt d
  rw [formatVector, bitsValue_xorBits (by simp), bitsValue_appendBits _ hr, bitsValue_appendBits _ hd,
    bitsValue_appendBits (w := FMT_MASK) (n := 15) _ (by decide), bitsValue_nil, Nat.zero_shiftLeft,
    Nat.zero_shiftLeft, Nat.zero_or, Nat.zero_or]
  rfl

/-! ### How the encoder ends (45_format.md R140, R145) -/

theorem maskIdentifier_eq_none {maskv : Int} :
    maskIdentifier maskv = none ↔ ¬(0 ≤ maskv ∧ maskv ≤ 3) := by
  constructor
  · rintro h ⟨h0, h3⟩
    obtain ⟨n, rfl⟩ := Int.eq_ofNat_of_zero_le h0
    have hm : maskIdentifier n = some ⟨n, by omega⟩ := maskIdentifier_eq_some.2 rfl
    rw [h] at hm
    cases hm
  · refine fun h => Option.eq_none_iff_forall_ne_some.2 fun m hm => h ?_
    have hv := maskIdentifier_eq_some.1 hm
    omega

/-- The mask check comes first. -/
theorem State.formatField_of_illegal_mask {s : State}
    (h : ¬(0 ≤ cfgMaskv s.cfg ∧ cfgMaskv s.cfg ≤ 3)) :
    s.formatField = .error .invalidMaskPattern := by
  rw [State.formatField, computeFormatBits, maskIdentifier_eq_none.2 h]

/-- With a legal mask, the table check comes next. -/
theorem State.formatField_of_undefined_pair {s : State}
    (h : 0 ≤ cfgMaskv s.cfg ∧ cfgMaskv s.cfg ≤ 3)
    (hpair : symtab s.params (cfgVersion s.cfg) (cfgEcl s.cfg) = none) :
    s.formatField = .error .invalidVersionLevelCombination := by
  obtain ⟨m, hm⟩ := Option.ne_none_iff_exists'.1 fun hn => maskIdentifier_eq_none.1 hn h
  rw [State.formatField, computeFormatBits, hm, hpair]

/-- A symbol number is of 3 bits (45_format.md R139). -/
theorem symtab_lt_eight {p : Params} {version : BitVec 3} {ecl : BitVec 2} {sn : Nat}
    (h : symtab p version ecl = some sn) : sn < 8 := by
  rcases symtab_eq_some h with ⟨-, -, rfl⟩ | ⟨r, -, -, -, rfl⟩
  · decide
  · exact r.symbol.isLt

/-- The data are 5 bits: 3 of the symbol number and 2 of the mask. -/
theorem State.formatReady.data_lt {s : State} {m : Fin 4} {sn : Nat} (h : s.formatReady m sn) :
    (sn <<< 2) ||| m.val < 2 ^ 5 := by
  have hsn : sn < 8 := symtab_lt_eight h.2
  exact Nat.or_lt_two_pow (by rw [Nat.shiftLeft_eq]; omega) (by omega)

/-- Otherwise the field is the integer form of the data: the length check passes (45_format.md R141,
R142). -/
theorem State.formatReady.formatField_eq {s : State} {m : Fin 4} {sn : Nat} (h : s.formatReady m sn) :
    s.formatField = .ok (BitVec.ofNat 15 (formatWord ((sn <<< 2) ||| m.val))) := by
  have hd := h.data_lt
  obtain ⟨hmask, hpair⟩ := h
  simp only [State.formatField, computeFormatBits, maskIdentifier_eq_some.2 hmask, hpair,
    formatVector_length, bitsValue_formatVector hd, ne_eq, not_true_eq_false, if_false]

/-- FMT's 15 bits hold the field whole. -/
theorem State.formatReady.toNat_field {s : State} {m : Fin 4} {sn : Nat} (h : s.formatReady m sn) :
    (BitVec.ofNat 15 (formatWord ((sn <<< 2) ||| m.val))).toNat = formatWord ((sn <<< 2) ||| m.val) :=
  Nat.mod_eq_of_lt (formatWord_lt h.data_lt)

/-- The three ways the encoder can end: the two checks, or a field. The length check is not among them. -/
theorem State.formatField_cases (s : State) :
    s.formatField = .error .invalidMaskPattern ∨
      s.formatField = .error .invalidVersionLevelCombination ∨ ∃ f, s.formatField = .ok f := by
  by_cases hmask : 0 ≤ cfgMaskv s.cfg ∧ cfgMaskv s.cfg ≤ 3
  · right
    cases hpair : symtab s.params (cfgVersion s.cfg) (cfgEcl s.cfg) with
    | none => exact .inl (State.formatField_of_undefined_pair hmask hpair)
    | some sn =>
      obtain ⟨m, hm⟩ := Option.ne_none_iff_exists'.1 fun hn => maskIdentifier_eq_none.1 hn hmask
      have hready : s.formatReady m sn := ⟨maskIdentifier_eq_some.1 hm, hpair⟩
      exact .inr ⟨_, hready.formatField_eq⟩
  · exact .inl (State.formatField_of_illegal_mask hmask)

/-! ### FMTBITS and EMBFMT -/

theorem decode_encode_fmtbits : decode (encode .fmtbits) = .command .fmtbits :=
  decode_encode_of_fields Laws.TableRow.fmtbits rfl rfl

theorem decode_encode_embfmt : decode (encode .embfmt) = .command .embfmt :=
  decode_encode_of_fields Laws.TableRow.embfmt rfl rfl

theorem State.formatReady.exec_fmtbits {s : State} {m : Fin 4} {sn : Nat} (h : s.formatReady m sn) :
    exec .fmtbits s = .next (s.setFmt (BitVec.ofNat 15 (formatWord ((sn <<< 2) ||| m.val)))) := by
  refine exec_of_done (i := .fmtbits) ?_
  rw [bodyOf, fmtbitsBody, h.formatField_eq]

/-- Settles O43: the field is the vector's value, whose integer form is below 2^15 and is not 0, since the
mask is no code word. -/
theorem fmtbitsWritesField : Obligations.FmtbitsWritesField := by
  unfold Obligations.FmtbitsWritesField
  refine ⟨decode_encode_fmtbits, fun s m sn h => ⟨_, h.exec_fmtbits, h.toNat_field, fun h0 => ?_⟩⟩
  have hzero := h.toNat_field
  rw [h0] at hzero
  exact formatWord_ne_zero _ hzero.symm

/-- An error of the encoder is raised by either command, over the state as it was. -/
theorem exec_of_formatField_error {i : Instr} {s : State} {e : ErrorKind}
    (hi : i = .fmtbits ∨ i = .embfmt) (h : s.formatField = .error e) :
    exec i s = .next (s.raise e) := by
  apply exec_of_failed
  rcases hi with rfl | rfl
  · rw [bodyOf, fmtbitsBody, h]
  · rw [bodyOf, embfmtStage, h]

/-- Settles O44: each check is passed before the next is reached, and the writes come after the last. -/
theorem formatErrorOrder : Obligations.FormatErrorOrder := by
  unfold Obligations.FormatErrorOrder
  refine ⟨fun i s hi hmask => ?_, fun i s hi hmask hpair => ?_, fun s m sn h h9 => ?_⟩
  · exact exec_of_formatField_error hi (State.formatField_of_illegal_mask hmask)
  · exact exec_of_formatField_error hi (State.formatField_of_undefined_pair hmask hpair)
  · refine exec_of_failed (i := .embfmt) (e := .outOfBounds) ?_
    rw [bodyOf, embfmtStage, h.formatField_eq]
    exact if_pos h9

/-- Settles O45: the exclusive-or with the mask gives the code word back, which is the data over their
remainder. -/
theorem formatFieldRoundTrip : Obligations.FormatFieldRoundTrip := by
  unfold Obligations.FormatFieldRoundTrip
  intro s t m sn h hexec
  rw [h.exec_fmtbits] at hexec
  cases hexec
  dsimp only
  rw [State.setFmt_fmt, h.toNat_field, formatWord_eq, Nat.xor_xor_cancel_right, formatCode_shiftRight]
  exact ⟨(formatCode_and _).symm, rfl⟩

/-- On DIM >= 9 nothing is raised: EMBFMT writes the format cells and FMT. -/
theorem State.formatReady.exec_embfmt {s : State} {m : Fin 4} {sn : Nat} (h : s.formatReady m sn)
    (h9 : 9 ≤ s.dim.toNat) :
    exec .embfmt s =
      .next ((s.setGrid (writeFormat (BitVec.ofNat 15 (formatWord ((sn <<< 2) ||| m.val))) s.grid)).setFmt
        (BitVec.ofNat 15 (formatWord ((sn <<< 2) ||| m.val)))) := by
  refine exec_of_done (i := .embfmt) ?_
  rw [bodyOf, embfmtStage, h.formatField_eq]
  exact if_neg (Nat.not_lt.2 h9)

theorem fmtPos_of_lt {i : Nat} (h : i < 8) : fmtPos i = (8, i + 1) := if_pos h

theorem fmtPos_of_le {i : Nat} (h : 8 ≤ i) : fmtPos i = (15 - i, 8) := if_neg (Nat.not_lt.2 h)

/-- The format cells lie in column 8 and in row 8 (45_format.md R144). -/
theorem fmtPos_ne {x y i : Nat} (hi : i < 15) (hcolumn : ¬(x = 8 ∧ 1 ≤ y ∧ y ≤ 8))
    (hrow : ¬(y = 8 ∧ 1 ≤ x ∧ x ≤ 7)) : fmtPos i ≠ (x, y) := by
  intro h
  rcases Nat.lt_or_ge i 8 with hlt | hge
  · rw [fmtPos_of_lt hlt, Prod.mk.injEq] at h
    omega
  · rw [fmtPos_of_le hge, Prod.mk.injEq] at h
    omega

/-- Settles O46: the coordinates of bits 0 to 7 are column 8's and those of bits 8 to 14 row 8's, and the
writes change no other cell. -/
theorem embfmtWritesFormatCells : Obligations.EmbfmtWritesFormatCells := by
  unfold Obligations.EmbfmtWritesFormatCells
  refine ⟨decode_encode_embfmt, fun s m sn h h9 => ⟨_, _, h.exec_embfmt h9, h.toNat_field, ?_⟩⟩
  obtain ⟨hwritten, hother⟩ :=
    writeFormat_spec (BitVec.ofNat 15 (formatWord ((sn <<< 2) ||| m.val))) s.grid
  refine ⟨fun i hi => ?_, fun i hi hi' => ?_, fun x y hcolumn hrow => ?_⟩
  · have hcell := hwritten i (by omega)
    rwa [fmtPos_of_lt hi] at hcell
  · have hcell := hwritten i hi'
    rwa [fmtPos_of_le hi] at hcell
  · exact hother x y fun i hi => fmtPos_ne hi hcolumn hrow

/-- The field's length check never fails (45_format.md R142). -/
theorem State.formatField_ne_postcondition {s : State} {e : ErrorKind} (h : s.formatField = .error e) :
    e ≠ .postconditionViolation := by
  rintro rfl
  rcases s.formatField_cases with hend | hend | ⟨f, hend⟩ <;> rw [h] at hend <;> cases hend

theorem fmtbitsBody_not_postcondition (s : State) :
    ¬ (fmtbitsBody s).raises .postconditionViolation := by
  rcases fmtbitsBody_cases s with ⟨f, -, h⟩ | ⟨e, he, h⟩ <;> rw [h]
  · exact Ending.not_raises_done _ _
  · exact fun hr => State.formatField_ne_postcondition he (Ending.raises_failed_iff.1 hr)

theorem embfmtStage_not_postcondition (s : State) :
    ¬ (embfmtStage s).raises .postconditionViolation := by
  rcases embfmtStage_cases s with ⟨f, -, -, h⟩ | ⟨e, he, h⟩ | ⟨-, -, h⟩ <;> rw [h]
  · exact Ending.not_raises_done _ _
  · exact fun hr => State.formatField_ne_postcondition he (Ending.raises_failed_iff.1 hr)
  · simp

/-- Settles O47: code 6 is this error's alone, so a command that leaves it raised the error, which neither
does, or found the code. -/
theorem formatLengthAlwaysFifteen : Obligations.FormatLengthAlwaysFifteen := by
  unfold Obligations.FormatLengthAlwaysFifteen
  refine ⟨formatVector_length, fun i s t hi hexec hcode => ?_⟩
  refine (exec_ecode_eq_code (k := .postconditionViolation) hexec hcode).resolve_left ?_
  rcases hi with rfl | rfl
  · exact fmtbitsBody_not_postcondition s
  · exact embfmtStage_not_postcondition s

end Sys2Proof.Machine

/-! The data placer EMBDATA (46_placer.md R150 to R160). The two loops of the traversal place the cells of the
visiting order one after another, so the lemma about a list of placed cells says what EMBDATA leaves. -/

namespace Sys2Proof.Machine

/-! ### The traversal follows the visiting order (46_placer.md R150, R155) -/

theorem placeAll_append (p : Payload) (l m : List (Nat × Nat)) (gi : Grid × Nat) :
    placeAll p (l ++ m) gi = placeAll p m (placeAll p l gi) := List.foldl_append

/-- The two cells of the j-th row that the traversal visits in the k-th pair of columns. -/
def pairRow (dim k j : Nat) : List (Nat × Nat) :=
  [(dim - 1 - 2 * k, if k % 2 = 0 then dim - 1 - j else j),
    (dim - 2 - 2 * k, if k % 2 = 0 then dim - 1 - j else j)]

theorem pairOrder_eq (dim k : Nat) : pairOrder dim k = (List.range' 0 dim).flatMap (pairRow dim k) := by
  rw [← List.range_eq_range']
  rfl

/-- The traversal before the j-th row of the k-th pair of columns; j = DIM when the pair is finished. -/
def Traversal.before (dim k j idx : Nat) : Traversal where
  x := (dim : Int) - 1 - 2 * k
  y := if k % 2 = 0 then (dim : Int) - 1 - j else j
  dir := if k % 2 = 0 then -1 else 1
  idx := idx

theorem Traversal.start_eq_before (dim : Nat) : Traversal.start dim = .before dim 0 0 0 := by
  simp [Traversal.start, Traversal.before]

/-- One row of a pair: its two cells are placed, and the traversal goes on to the next row. -/
theorem walkPair_before (p : Payload) {dim k j : Nat} (hk : k < dim / 2) (hj : j < dim) (fuel idx : Nat)
    (g : Grid) :
    walkPair p dim (fuel + 1) (.before dim k j idx) g =
      walkPair p dim fuel (.before dim k (j + 1) (placeAll p (pairRow dim k j) (g, idx)).2)
        (placeAll p (pairRow dim k j) (g, idx)).1 := by
  have hx : (Traversal.before dim k j idx).x.toNat = dim - 1 - 2 * k := by
    simp only [Traversal.before]; omega
  have hx' : ((Traversal.before dim k j idx).x - 1).toNat = dim - 2 - 2 * k := by
    simp only [Traversal.before]; omega
  have hy : (Traversal.before dim k j idx).y.toNat = if k % 2 = 0 then dim - 1 - j else j := by
    simp only [Traversal.before]; split <;> omega
  have hactive : 0 ≤ (Traversal.before dim k j idx).y ∧ (Traversal.before dim k j idx).y < dim := by
    simp only [Traversal.before]; split <;> omega
  have hnext : (Traversal.before dim k j idx).y + (Traversal.before dim k j idx).dir
      = (Traversal.before dim k (j + 1) idx).y := by
    simp only [Traversal.before]; split <;> omega
  rw [walkPair, if_pos hactive]
  simp only [hx, hx', hy, hnext]
  rfl

/-- The rest of a pair from row j on. -/
theorem walkPair_eq_placeAll (p : Payload) {dim k : Nat} (hk : k < dim / 2) (n j idx : Nat) (g : Grid)
    (hn : j + n = dim) :
    walkPair p dim n (.before dim k j idx) g =
      (.before dim k dim (placeAll p ((List.range' j n).flatMap (pairRow dim k)) (g, idx)).2,
        (placeAll p ((List.range' j n).flatMap (pairRow dim k)) (g, idx)).1) := by
  induction n generalizing j idx g with
  | zero =>
    obtain rfl : j = dim := hn
    rfl
  | succ n ih =>
    rw [walkPair_before p hk (by omega), ih _ _ _ (by omega), List.range'_succ, List.flatMap_cons,
      placeAll_append]

/-- At the end of a pair the traversal turns round and moves two columns to the left. -/
theorem Traversal.turn_before (dim k idx : Nat) :
    { x := (Traversal.before dim k dim idx).x - 2
      y := (Traversal.before dim k dim idx).y + -(Traversal.before dim k dim idx).dir
      dir := -(Traversal.before dim k dim idx).dir
      idx := (Traversal.before dim k dim idx).idx } = Traversal.before dim (k + 1) 0 idx := by
  simp only [Traversal.before, Traversal.mk.injEq, and_true]
  rcases Nat.mod_two_eq_zero_or_one k with h | h
  · rw [if_pos h, if_pos h, if_neg (by omega), if_neg (by omega)]
    omega
  · rw [if_neg (by omega), if_neg (by omega), if_pos (by omega), if_pos (by omega)]
    omega

/-- The rest of the traversal from the k-th pair on. -/
theorem walkPairs_eq_placeAll (p : Payload) {dim : Nat} (n fuel k idx : Nat) (g : Grid)
    (hn : k + n = dim / 2) (hfuel : n ≤ fuel) :
    ((walkPairs p dim fuel (.before dim k 0 idx) g).2, (walkPairs p dim fuel (.before dim k 0 idx) g).1.idx)
      = placeAll p ((List.range' k n).flatMap (pairOrder dim)) (g, idx) := by
  induction n generalizing fuel k idx g with
  | zero =>
    have hstop : ¬ 0 < (Traversal.before dim k 0 idx).x := by simp only [Traversal.before]; omega
    cases fuel with
    | zero => rfl
    | succ fuel => rw [walkPairs, if_neg hstop]; rfl
  | succ n ih =>
    obtain ⟨fuel, rfl⟩ := Nat.exists_eq_add_one_of_ne_zero (Nat.ne_of_gt (by omega : 0 < fuel))
    have hgo : 0 < (Traversal.before dim k 0 idx).x := by simp only [Traversal.before]; omega
    rw [walkPairs, if_pos hgo, walkPair_eq_placeAll p (by omega) dim 0 idx g (Nat.zero_add dim),
      ← pairOrder_eq, List.range'_succ, List.flatMap_cons, placeAll_append]
    simp only [Traversal.turn_before]
    exact ih fuel (k + 1) _ _ (by omega) (by omega)

/-- The traversal places the cells of the visiting order, one after another. -/
theorem place_eq_placeAll (p : Payload) (dim : Nat) (g : Grid) :
    place p dim g = placeAll p (visitOrder dim) (g, 0) := by
  rw [place, Traversal.start_eq_before, visitOrder, List.range_eq_range']
  exact walkPairs_eq_placeAll p (dim / 2) dim 0 0 g (Nat.zero_add _) (Nat.div_le_self dim 2)

/-! ### What the traversal leaves (46_placer.md R151 to R153, R156) -/

/-- Past the payload's end every bit is the padding bit (46_placer.md R152). -/
theorem Payload.bitAt_min_length (p : Payload) (k x y : Nat) :
    p.bitAt (min k p.bits.length) x y = p.bitAt k x y := by
  have hbit : p.bits.getD (min k p.bits.length) false = p.bits.getD k false := by
    rcases Nat.le_total k p.bits.length with h | h
    · rw [Nat.min_eq_left h]
    · rw [Nat.min_eq_right h, List.getD_eq_default _ _ h, List.getD_eq_default _ _ (Nat.le_refl _)]
  rw [Payload.bitAt, Payload.bitAt, hbit]

/-- What placing a payload in a state's symbol comes to. -/
theorem place_spec (p : Payload) (s : State) :
    (place p s.side s.grid).2 = min (placerCells s.dim.toNat s.grid).length p.bits.length ∧
      (∀ k c, (placerCells s.dim.toNat s.grid)[k]? = some c →
        (place p s.side s.grid).1.cell c.1 c.2 = codeOfBit (p.bitAt k c.1 c.2)) ∧
      ∀ x y, (x, y) ∉ placerCells s.dim.toNat s.grid →
        (place p s.side s.grid).1.cell x y = s.grid.cell x y := by
  have hstored : ∀ c ∈ visitOrder s.dim.toNat, c.1 < Config.maxSide ∧ c.2 < Config.maxSide :=
    fun c hc => ⟨State.lt_maxSide_of_lt_dim (visitOrder_bounds hc).1,
      State.lt_maxSide_of_lt_dim (visitOrder_bounds hc).2⟩
  have hspec := placeAll_spec p (visitOrder s.dim.toNat) (s.grid, 0) (visitOrder_nodup _) hstored
    (Nat.zero_le _)
  rw [← place_eq_placeAll] at hspec
  simp only [Nat.zero_add, Payload.bitAt_min_length] at hspec
  exact hspec

/-- Without a mask the traversal does not call the mask function (46_placer.md R160). -/
theorem place_unmasked (bits : List Bool) (f f' : MaskFn) (dim : Nat) (g : Grid) :
    place ⟨bits, none, f⟩ dim g = place ⟨bits, none, f'⟩ dim g := by
  have hcell : placeCell ⟨bits, none, f⟩ = placeCell ⟨bits, none, f'⟩ := rfl
  rw [place_eq_placeAll, place_eq_placeAll, placeAll, placeAll, hcell]

/-! ### The mask (46_placer.md R153, R154, R160) -/

theorem placerMask_of_illegal {maskv : Int} (h : ¬(-1 ≤ maskv ∧ maskv ≤ 3)) :
    placerMask maskv = none :=
  (placerMask_eq_none_iff maskv).2 (by omega)

theorem placerMask_of_legal {maskv : Int} (hlow : -1 ≤ maskv) (hhigh : maskv ≤ 3) :
    ∃ mask, placerMask maskv = some mask := by
  refine Option.ne_none_iff_exists'.1 fun hnone => ?_
  have hne := (placerMask_eq_none_iff maskv).1 hnone
  omega

theorem placerMask_sentinel {maskv : Int} (h : maskv = -1) : placerMask maskv = some none := if_pos h

/-- With the sentinel the bit is the payload's own (46_placer.md R160). -/
theorem Payload.bitAt_unmasked (bits : List Bool) (fn : MaskFn) (k x y : Nat) :
    (⟨bits, none, fn⟩ : Payload).bitAt k x y = bits.getD k false := rfl

/-- Under the mask that maskv names, the bit is the payload's, flipped by `maskFlip`. -/
theorem Payload.bitAt_of_placerMask {maskv : Int} {mask : Option (Fin 4)}
    (h : placerMask maskv = some mask) (bits : List Bool) (k x y : Nat) :
    (⟨bits, mask, Config.maskFn⟩ : Payload).bitAt k x y =
      (bits.getD k false ^^ maskFlip maskv x y) := by
  by_cases hsent : maskv = -1
  · rw [placerMask_sentinel hsent] at h
    cases h
    have hid : maskIdentifier maskv = none := maskIdentifier_eq_none.2 (by omega)
    rw [Payload.bitAt_unmasked, maskFlip, hid, Bool.xor_false]
  · rw [placerMask, if_neg hsent] at h
    obtain ⟨m, hm, rfl⟩ := Option.map_eq_some_iff.1 h
    rw [Payload.bitAt, maskFlip, hm]

/-! ### How EMBDATA ends (46_placer.md R150, R154, R156) -/

theorem embdataStageWith_of_illegal_mask {s : State}
    (h : ¬(-1 ≤ cfgMaskv s.cfg ∧ cfgMaskv s.cfg ≤ 3)) (fn : MaskFn) (vs1 : VReg) :
    embdataStageWith fn vs1 s = .failed .invalidMaskPattern s := by
  rw [embdataStageWith, placerMask_of_illegal h]

section LegalMask

variable {s : State} {mask : Option (Fin 4)} (hmask : placerMask (cfgMaskv s.cfg) = some mask)
  (fn : MaskFn) (vs1 : VReg)
include hmask

/-- The cells are those the traversal leaves, however the stage ends. -/
theorem embdataStageWith_settle_grid :
    (embdataStageWith fn vs1 s).settle.grid = (place ⟨s.vec vs1, mask, fn⟩ s.side s.grid).1 := by
  rw [embdataStageWith, hmask]
  dsimp only
  split <;> rfl

/-- A payload no longer than its cells is consumed whole, and nothing is raised. -/
theorem embdataStageWith_of_fits
    (hfits : (s.vec vs1).length ≤ (placerCells s.dim.toNat s.grid).length) :
    embdataStageWith fn vs1 s =
      .done ((s.setGrid (place ⟨s.vec vs1, mask, fn⟩ s.side s.grid).1).setCounts
        (BitVec.ofNat 32 (s.vec vs1).length) (BitVec.ofNat 32 (s.vec vs1).length)) := by
  have hcount : (place ⟨s.vec vs1, mask, fn⟩ s.side s.grid).2 = (s.vec vs1).length :=
    (place_spec _ s).1.trans (Nat.min_eq_right hfits)
  rw [embdataStageWith, hmask]
  simp only [hcount, ne_eq, not_true_eq_false, if_false]

end LegalMask

theorem decode_encode_embdata (vs1 : VReg) :
    decode (encode (.embdata vs1)) = .command (.embdata vs1) :=
  decode_encode_of_fields (Laws.TableRow.embdata vs1) rfl
    (by simp [Laws.TableRow.opOf, readFields, encode])

/-- Settles O49: the word is EMBDATA's encoding; the stage ends done, with the cells that the traversal
leaves. -/
theorem embdataPlacesPayload : Obligations.EmbdataPlacesPayload := by
  unfold Obligations.EmbdataPlacesPayload
  refine ⟨fun vs1 => ?_, fun vs1 s hlow hhigh hfits => ?_⟩
  · have hword : encode (.embdata vs1) = 0x04000000#32 ||| ((vregField vs1).setWidth 32 <<< 20) := by
      simp [encode, formatV_eq_or]
    rw [← hword, decode_encode_embdata]
  · obtain ⟨mask, hmask⟩ := placerMask_of_legal hlow hhigh
    obtain ⟨-, hcells, hframe⟩ := place_spec ⟨s.vec vs1, mask, Config.maskFn⟩ s
    refine ⟨_, exec_of_done (i := .embdata vs1) (embdataStageWith_of_fits hmask _ vs1 hfits),
      fun k x y hk => ?_, hframe⟩
    rw [State.setGrid_grid, hcells k (x, y) hk, Payload.bitAt_of_placerMask hmask, codeOfBit]

/-- Settles O52: with no mask in the payload the mask function is not called, and the cells of either
ending are those that the traversal leaves. -/
theorem sentinelPlacesBitsUnmodified : Obligations.SentinelPlacesBitsUnmodified := by
  unfold Obligations.SentinelPlacesBitsUnmodified
  refine ⟨fun f f' vs1 s hsent => ?_, fun f vs1 s k x y hsent hk => ?_⟩
  · rw [embdataStageWith, embdataStageWith, placerMask_sentinel hsent]
    dsimp only
    rw [place_unmasked _ f f']
  · have hmask := placerMask_sentinel hsent
    obtain ⟨-, hcells, -⟩ := place_spec ⟨s.vec vs1, none, f⟩ s
    rw [embdataStageWith_settle_grid hmask, hcells k (x, y) hk, Payload.bitAt_unmasked, codeOfBit]

/-- Settles O51: the mask check comes before the traversal, and the raise is over the state as it was. -/
theorem embdataChecksMaskFirst : Obligations.EmbdataChecksMaskFirst := by
  unfold Obligations.EmbdataChecksMaskFirst
  exact fun vs1 s h => exec_of_failed (i := .embdata vs1) (embdataStageWith_of_illegal_mask h _ vs1)

end Sys2Proof.Machine

/-! The composite command ENCODE (47_encode.md R165 to R168). Stage 1 always succeeds on the matrix that
stage 0 clears, so an early stop below DIM = 9 is stage 2's; a cell once written is never EMPTY again, so a
complete ENCODE leaves no active cell EMPTY; and no stage reads the host's pending accesses, so the stages
may as well be issued one after another. -/

namespace Sys2Proof.Machine

/-! ### The patterns on the cleared matrix (stage 1) -/

theorem codeOfBit_ne_empty (b : Bool) : codeOfBit b ≠ .empty := by cases b <;> decide

/-- On the matrix that stage 0 clears EMBPAT succeeds, and it leaves no pattern cell EMPTY. -/
theorem embpatStage_clearMatrix {s : State} (h8 : 8 ≤ s.dim.toNat) (hmax : s.dim.toNat ≤ s.params.nmax) :
    ∃ g, embpatStage s.clearMatrix = .done (s.clearMatrix.setGrid g) ∧
      ∀ x y, inFinderRegion x y ∨ inTiming s.dim.toNat x y → g.cell x y ≠ .empty := by
  have hcleared : ∀ x y, x < s.dim.toNat → y < s.dim.toNat → s.clearMatrix.grid.cell x y = .empty :=
    fun x y hx hy => Grid.cell_cleared (Nat.le_of_lt_succ s.params.nmax.isLt) (by omega) (by omega)
  have hfinder : ∀ x y, inFinderRegion x y → s.clearMatrix.grid.cell x y = .empty := by
    rintro x y ⟨hx, hy⟩
    exact hcleared x y (by omega) (by omega)
  have htimed : ∀ x y, inTiming s.dim.toNat x y → s.clearMatrix.grid.cell x y = .empty := by
    rintro x y (⟨rfl, -, hx⟩ | ⟨rfl, -, hy⟩)
    · exact hcleared x 0 hx (by omega)
    · exact hcleared 0 y (by omega) hy
  obtain ⟨g, hdone, hregion, htiming, -⟩ := embpatStage_done (s := s.clearMatrix) h8 hfinder
    fun x y h => by rw [htimed x y h]; decide
  refine ⟨g, hdone, fun x y h => ?_⟩
  rcases h with hr | ht
  · obtain ⟨⟨x, y, c⟩, hc, ⟨⟩⟩ := List.mem_map.1 (mem_regionWrites_at.2 hr)
    rw [hregion _ _ _ hc]
    rcases mem_regionWrites.1 hc with ⟨-, -, rfl⟩ | ⟨-, -, rfl⟩ | ⟨-, -, rfl⟩
    · exact codeOfBit_ne_empty _
    · decide
    · decide
  · rw [htiming x y ht, if_pos (htimed x y ht)]
    exact codeOfBit_ne_empty _

/-! ### What stops an ENCODE at stage 1 or 2 (47_encode.md R165, R167) -/

theorem embfmtStage_of_formatField_error {s : State} {e : ErrorKind} (h : s.formatField = .error e) :
    embfmtStage s = .failed e s := by
  rw [embfmtStage, h]

theorem State.formatReady.embfmtStage_small {s : State} {m : Fin 4} {sn : Nat} (h : s.formatReady m sn)
    (h9 : s.dim.toNat < 9) : embfmtStage s = .failed .outOfBounds s := by
  rw [embfmtStage, h.formatField_eq]
  exact if_pos h9

/-- An error of stage 1 ends ENCODE. -/
theorem exec_encode_of_embpat_failed {s t : State} {e : ErrorKind}
    (h : embpatStage s.clearMatrix = .failed e t) (vs1 : VReg) :
    exec (.encode vs1) s = .next (t.raise e) := by
  refine exec_of_failed (i := .encode vs1) ?_
  rw [bodyOf, encodeBodyWith, h]
  rfl

/-- An error of stage 2 that does not depend on the cells ends ENCODE once stage 1 has succeeded: only the
cells and STATUS have changed. -/
theorem exec_encode_of_embfmt_failed {s : State} {e : ErrorKind} (h8 : 8 ≤ s.dim.toNat)
    (hmax : s.dim.toNat ≤ s.params.nmax)
    (h : ∀ g, embfmtStage (s.clearMatrix.setGrid g) = .failed e (s.clearMatrix.setGrid g)) (vs1 : VReg) :
    ∃ g, exec (.encode vs1) s = .next { s with grid := g, err := true, ecode := e.code } := by
  obtain ⟨g, hpat, -⟩ := embpatStage_clearMatrix h8 hmax
  refine ⟨g, exec_of_failed (i := .encode vs1) (t := s.clearMatrix.setGrid g) ?_⟩
  rw [bodyOf, encodeBodyWith, hpat, Ending.andThen_done, h, Ending.andThen_failed]

/-- Settles O57: a small DIM stops stage 1; on any other DIM stage 1 succeeds, and stage 2 reads CFG, the
parameters and DIM, which are as before. -/
theorem encodeStageErrors : Obligations.EncodeStageErrors := by
  unfold Obligations.EncodeStageErrors
  refine ⟨fun vs1 s hsmall => ?_, fun vs1 s h8 hmax hmask => ?_, fun vs1 s h8 hmax hmask hpair => ?_,
    fun vs1 s m sn h h8 hmax => ?_⟩
  · exact ⟨_, exec_encode_of_embpat_failed (embpatStage_small s.clearMatrix hsmall) vs1⟩
  · exact exec_encode_of_embfmt_failed (e := .invalidMaskPattern) h8 hmax
      (fun g => embfmtStage_of_formatField_error (State.formatField_of_illegal_mask hmask)) vs1
  · exact exec_encode_of_embfmt_failed (e := .invalidVersionLevelCombination) h8 hmax
      (fun g => embfmtStage_of_formatField_error (State.formatField_of_undefined_pair hmask hpair)) vs1
  · have hready : ∀ g, (s.clearMatrix.setGrid g).formatReady m sn := fun g => h
    exact exec_encode_of_embfmt_failed (e := .outOfBounds) h8.ge hmax
      (fun g => (hready g).embfmtStage_small (h8.trans_lt (by decide))) vs1

/-! ### A cell that a stage writes is not EMPTY after it (47_encode.md R166) -/

theorem writeFormat_ne_empty (f : BitVec 15) {g : Grid} {x y : Nat} (h : g.cell x y ≠ .empty) :
    (writeFormat f g).cell x y ≠ .empty := by
  obtain ⟨hwritten, hother⟩ := writeFormat_spec f g
  by_cases hxy : ∃ i < 15, fmtPos i = (x, y)
  · obtain ⟨i, hi, hpos⟩ := hxy
    have hcell := hwritten i hi
    rw [hpos] at hcell
    rw [hcell]
    exact codeOfBit_ne_empty _
  · rw [hother x y fun i hi hpos => hxy ⟨i, hi, hpos⟩]
    exact h

/-- The traversal leaves no cell EMPTY that it visits, and none that was not EMPTY. -/
theorem place_ne_empty (p : Payload) {s : State} {x y : Nat}
    (h : (x, y) ∈ visitOrder s.dim.toNat ∨ s.grid.cell x y ≠ .empty) :
    (place p s.side s.grid).1.cell x y ≠ .empty := by
  obtain ⟨-, hcells, hframe⟩ := place_spec p s
  by_cases hmem : (x, y) ∈ placerCells s.dim.toNat s.grid
  · obtain ⟨k, hk⟩ := List.mem_iff_getElem?.1 hmem
    rw [hcells k (x, y) hk]
    exact codeOfBit_ne_empty _
  · rw [hframe x y hmem]
    rcases h with hvisit | hne
    · exact fun he => hmem (List.mem_filter.2 ⟨hvisit, beq_iff_eq.2 he⟩)
    · exact hne

/-- When EMBDATA's stage succeeds, its cells are those of a traversal. -/
theorem embdataStageWith_done_grid {fn : MaskFn} {vs1 : VReg} {s t : State}
    (h : embdataStageWith fn vs1 s = .done t) : ∃ p, t.grid = (place p s.side s.grid).1 := by
  cases hmask : placerMask (cfgMaskv s.cfg) with
  | none =>
    rw [embdataStageWith, hmask] at h
    cases h
  | some mask =>
    have hgrid := embdataStageWith_settle_grid hmask fn vs1
    rw [h, Ending.settle_done] at hgrid
    exact ⟨_, hgrid⟩

/-- When EMBFMT's stage succeeds, it has made the format writes and set FMT. -/
theorem embfmtStage_done {s t : State} (h : embfmtStage s = .done t) :
    ∃ f, t = (s.setGrid (writeFormat f s.grid)).setFmt f := by
  rcases embfmtStage_cases s with ⟨f, -, -, hs⟩ | ⟨e, -, hs⟩ | ⟨-, -, hs⟩ <;> rw [hs] at h <;> cases h
  exact ⟨f, rfl⟩

/-- An ENCODE that leaves ERR = 0 has completed all its stages. -/
theorem exec_encode_done {vs1 : VReg} {s t : State} (h : exec (.encode vs1) s = .next t)
    (herr : t.err = false) : encodeBodyWith Config.maskFn vs1 s = .done t := by
  rw [exec_eq_next_iff, bodyOf] at h
  subst h
  cases hbody : encodeBodyWith Config.maskFn vs1 s with
  | done u => rfl
  | failed e u =>
    rw [hbody] at herr
    cases herr

/-- Settles O55: the traversal visits every active cell but those of column 0 on an odd side, and these are
pattern cells, which stage 1 has written. -/
theorem encodeLeavesNoEmptyCell : Obligations.EncodeLeavesNoEmptyCell := by
  unfold Obligations.EncodeLeavesNoEmptyCell
  intro vs1 s t hmax hexec herr x y hx hy
  obtain ⟨b, hab, hdata⟩ := Ending.andThen_eq_done.1 (exec_encode_done hexec herr)
  obtain ⟨a, hpat, hfmt⟩ := Ending.andThen_eq_done.1 hab
  have hside : 8 ≤ s.dim.toNat := by
    by_contra hsmall
    rw [embpatStage_small s.clearMatrix (Nat.lt_of_not_le hsmall)] at hpat
    cases hpat
  obtain ⟨g, hpat', hpatterns⟩ := embpatStage_clearMatrix hside hmax
  rw [hpat'] at hpat
  cases hpat
  obtain ⟨f, rfl⟩ := embfmtStage_done hfmt
  obtain ⟨p, hgrid⟩ := embdataStageWith_done_grid hdata
  rw [hgrid]
  apply place_ne_empty
  by_cases hvisit : x ≠ 0 ∨ s.dim.toNat % 2 = 0
  · exact .inl (mem_visitOrder hx hy hvisit)
  · refine .inr (writeFormat_ne_empty f (hpatterns x y ?_))
    obtain rfl : x = 0 := by omega
    rcases Nat.lt_or_ge y 8 with hy8 | hy8
    · exact .inl ⟨Nat.zero_le 7, by omega⟩
    · exact .inr (.inr ⟨rfl, hy8, hy⟩)

/-! ### The stages do not read the host's accesses -/

/-- A stage neither reads nor changes the host's pending accesses. -/
def ignoresHost (f : State → Ending State) : Prop :=
  ∀ (s : State) (es : List HostEvent), f (s.setHost es) = (f s).map (·.setHost es)

theorem embpatStage_ignoresHost : ignoresHost embpatStage := by
  intro s es
  by_cases h : s.side < 8
  · rw [embpatStage_small (s.setHost es) h, embpatStage_small s h]
    rfl
  · rw [embpatStage_eq (s.setHost es) h, embpatStage_eq s h, State.setHost_side, State.setHost_grid]
    cases writePatterns FINDER s.side s.grid <;> rfl

theorem embfmtStage_ignoresHost : ignoresHost embfmtStage := by
  intro s es
  have hfield : (s.setHost es).formatField = s.formatField := rfl
  rw [embfmtStage, embfmtStage, hfield]
  cases s.formatField with
  | error e => rfl
  | ok f =>
    by_cases h : s.side < 9
    · simp only [State.setHost_side, h, if_true, Ending.map_failed]
    · simp only [State.setHost_side, h, if_false, Ending.map_done]
      rfl

theorem embdataStageWith_ignoresHost (fn : MaskFn) (vs1 : VReg) :
    ignoresHost (embdataStageWith fn vs1) := by
  intro s es
  rw [embdataStageWith, embdataStageWith, State.setHost_cfg]
  cases placerMask (cfgMaskv s.cfg) with
  | none => rfl
  | some mask =>
    simp only [State.setHost_vec, State.setHost_side, State.setHost_grid]
    split <;> rfl

theorem ignoresHost.andThen {f g : State → Ending State} (hf : ignoresHost f) (hg : ignoresHost g) :
    ignoresHost fun s => (f s).andThen g := by
  intro s es
  dsimp only
  rw [hf s es]
  cases f s with
  | done a => exact hg a es
  | failed e a => rfl

theorem encodeBodyWith_ignoresHost (fn : MaskFn) (vs1 : VReg) : ignoresHost (encodeBodyWith fn vs1) :=
  fun s => ((embpatStage_ignoresHost.andThen embfmtStage_ignoresHost).andThen
    (embdataStageWith_ignoresHost fn vs1)) s.clearMatrix

theorem Ending.settle_map_setHost (r : Ending State) (es : List HostEvent) :
    (r.map (·.setHost es)).settle = r.settle.setHost es := by
  cases r <;> rfl

/-! ### The stages issued one after another (47_encode.md R168) -/

theorem decode_encode_clear : decode (encode .clear) = .command .clear :=
  decode_encode_of_fields Laws.TableRow.clear rfl rfl

theorem decode_encode_embpat : decode (encode .embpat) = .command .embpat :=
  decode_encode_of_fields Laws.TableRow.embpat rfl rfl

theorem decode_encode_encode (vs1 : VReg) :
    decode (encode (.encode vs1)) = .command (.encode vs1) :=
  decode_encode_of_fields (Laws.TableRow.encode vs1) rfl
    (by simp [Laws.TableRow.opOf, readFields, encode])

@[simp] theorem State.setHost_setHost (s : State) (es fs : List HostEvent) :
    (s.setHost es).setHost fs = s.setHost fs := rfl

/-- A step that serves the CMD write of a command which STATUS does not shut out leaves what the command's
body leaves. -/
theorem step_of_accepted {i : Instr} (hdecode : decode (encode i) = .command i)
    (hhost : ignoresHost (bodyOf i)) {s : State} (h : s.err = false ∨ acceptedInError i = true)
    (rest : List HostEvent) :
    step (s.setHost (cmdWrite (encode i) :: rest)) = .next ((bodyOf i s).settle.setHost rest) := by
  rw [step_cmdWrite (State.setHost_host ..), State.setHost_setHost,
    issue_of_accepted (s := s.setHost rest) hdecode h, exec_eq_body, hhost, Ending.settle_map_setHost]

/-- A command issued after an ending r is r's next stage: it runs if r is done, and is ignored if r has
raised an error. -/
theorem step_of_ending {i : Instr} (hdecode : decode (encode i) = .command i)
    (hhost : ignoresHost (bodyOf i)) (hacc : ¬ acceptedInError i = true) {r : Ending State}
    (hr : r.last.err = false) (rest : List HostEvent) :
    step (r.settle.setHost (cmdWrite (encode i) :: rest)) =
      .next ((r.andThen (bodyOf i)).settle.setHost rest) := by
  cases r with
  | done a => exact step_of_accepted hdecode hhost (.inl hr) rest
  | failed e a =>
    rw [step_cmdWrite (State.setHost_host ..), issue_of_ignored hdecode rfl hacc]
    rfl

/-- Settles O56: CLEAR is stage 0, and each later command is the next stage; on the other side ENCODE runs
the same stages in one step. -/
theorem encodeEqualsFourCommands : Obligations.EncodeEqualsFourCommands := by
  unfold Obligations.EncodeEqualsFourCommands
  intro vs1 s rest
  have hclear := step_of_accepted (i := .clear) (s := s) decode_encode_clear (fun _ _ => rfl) (.inr rfl)
    ([cmdWrite (encode .embpat), cmdWrite (encode .embfmt), cmdWrite (encode (.embdata vs1))] ++ rest)
  have hpat := step_of_ending (i := .embpat) decode_encode_embpat embpatStage_ignoresHost (by decide)
    (r := .done s.clearMatrix) rfl
    ([cmdWrite (encode .embfmt), cmdWrite (encode (.embdata vs1))] ++ rest)
  have hpatErr : (embpatStage s.clearMatrix).last.err = false := (embpatStage_sameStatus _).1
  have hfmt := step_of_ending (i := .embfmt) decode_encode_embfmt embfmtStage_ignoresHost (by decide)
    hpatErr ([cmdWrite (encode (.embdata vs1))] ++ rest)
  have hfmtErr : ((embpatStage s.clearMatrix).andThen embfmtStage).last.err = false :=
    Ending.last_andThen (P := fun a => a.err = false) hpatErr
      fun a ha => (embfmtStage_sameStatus a).1.trans ha
  have hdata := step_of_ending (i := .embdata vs1) (decode_encode_embdata vs1)
    (embdataStageWith_ignoresHost _ vs1) Bool.false_ne_true hfmtErr rest
  have hencode := step_of_accepted (i := .encode vs1) (s := s) (decode_encode_encode vs1)
    (encodeBodyWith_ignoresHost _ vs1) (.inr rfl) rest
  calc runFor 4 (s.setHost _)
    _ = runFor 3 _ := runFor_succ hclear
    _ = runFor 2 _ := runFor_succ hpat
    _ = runFor 1 _ := runFor_succ hfmt
    _ = runFor 0 _ := runFor_succ hdata
    _ = runFor 1 (s.setHost _) := (runFor_succ hencode).symm

end Sys2Proof.Machine

/-! After an error (60_exceptions.md R183, R193). While ERR = 1 a step either gives every cell a new content,
whatever the cells held, or leaves ERR = 1 and the cells as they are. Either way what the cells held shows in
nothing else, and a run of any length repeats this. -/

namespace Sys2Proof.Machine

/-! ### Waiting (60_exceptions.md R193) -/

/-- Settles O8. -/
theorem waitingBlockHoldsState : Obligations.WaitingBlockHoldsState := by
  unfold Obligations.WaitingBlockHoldsState
  intro s hhost
  rw [step, hhost]

/-! ### One step while ERR = 1 (60_exceptions.md R183) -/

/-- Two outcomes, o' from a state with the matrix g and o from the same state with its own: they are equal,
so that the old cells are gone, or both states still have ERR = 1 and the cells they began with, and are alike
in everything else. -/
def cellsUnread (g : Grid) (o o' : Host.Outcome State Fault Refusal) : Prop :=
  o' = o ∨ ∃ t : State, t.err = true ∧ o = .next t ∧ o' = .next (t.setGrid g)

theorem cellsUnread_next {t : State} (herr : t.err = true) (g : Grid) :
    cellsUnread g (.next t) (.next (t.setGrid g)) :=
  .inr ⟨t, herr, rfl, rfl⟩

/-- CLEAR and ENCODE begin by emptying every cell (41_matrix.md R100, 47_encode.md R165). -/
theorem exec_setGrid_of_accepted {i : Instr} (hacc : acceptedInError i = true) (s : State) (g : Grid) :
    exec i (s.setGrid g) = exec i s := by
  have hclear : (s.setGrid g).clearMatrix = s.clearMatrix := rfl
  cases i with
  | clear => rw [exec_eq_body, exec_eq_body, bodyOf, bodyOf, hclear]
  | encode vs1 =>
    rw [exec_eq_body, exec_eq_body, bodyOf, bodyOf, encodeBodyWith, encodeBodyWith, hclear]
  | _ => exact absurd hacc Bool.false_ne_true

section InError

variable {s : State} (herr : s.err = true) (g : Grid)
include herr

/-- Every command but CLEAR and ENCODE is ignored, and so is an ILLEGAL word (30_encoding.md R63). -/
theorem issue_cellsUnread (w : Word) : cellsUnread g (issue w s) (issue w (s.setGrid g)) := by
  have herr' : (s.setGrid g).err = true := herr
  cases hd : decode w with
  | command i =>
    by_cases hacc : acceptedInError i = true
    · rw [issue_of_accepted hd (.inr hacc), issue_of_accepted hd (.inr hacc)]
      exact .inl (exec_setGrid_of_accepted hacc s g)
    · rw [issue_of_ignored hd herr hacc, issue_of_ignored hd herr' hacc]
      exact cellsUnread_next herr g
  | illegal why =>
    rw [issue_of_illegal s hd, issue_of_illegal _ hd, if_pos herr, if_pos herr']
    exact cellsUnread_next herr g

/-- A legal DIM write draws every cell anew, and any other is ignored (10_state.md R27, R28). -/
theorem setDim_cellsUnread (w : Word) :
    cellsUnread g (.next (s.setDim w)) (.next ((s.setGrid g).setDim w)) := by
  rw [State.setDim, State.setDim, State.setGrid_params]
  split
  · exact .inl rfl
  · exact cellsUnread_next herr g

theorem hostWrite_cellsUnread (r : HostReg) (w : Word) :
    cellsUnread g (hostWrite r w s) (hostWrite r w (s.setGrid g)) := by
  cases r with
  | cmd => exact issue_cellsUnread herr g w
  | dim => exact setDim_cellsUnread herr g w
  | cfg => exact cellsUnread_next (t := s.setCfg w) herr g
  | opa => exact cellsUnread_next (t := s.setOpa w) herr g
  | opb => exact cellsUnread_next (t := s.setOpb w) herr g
  | _ => exact cellsUnread_next herr g

/-- No register shows a cell (10_state.md R21). -/
theorem hostRead_cellsUnread (r : HostReg) :
    cellsUnread g (hostRead r s) (hostRead r (s.setGrid g)) := by
  have hword : readWord r (s.setGrid g) = readWord r s := by cases r <;> rfl
  rw [hostRead, hostRead, hword, State.setGrid_ecode]
  split
  · exact .inl rfl
  · exact cellsUnread_next (t := s.observe (readWord r s)) herr g

/-- A refused access stops both alike, and a reset draws every cell anew. -/
theorem serve_cellsUnread (e : HostEvent) : cellsUnread g (serve e s) (serve e (s.setGrid g)) := by
  cases e with
  | reset => exact .inl rfl
  | write offset bits data =>
    rw [serve, serve]
    cases busTarget offset bits with
    | refused why => exact .inl rfl
    | register r => exact hostWrite_cellsUnread herr g r data
  | read offset bits =>
    rw [serve, serve]
    cases busTarget offset bits with
    | refused why => exact .inl rfl
    | register r => exact hostRead_cellsUnread herr g r

theorem step_cellsUnread : cellsUnread g (step s) (step (s.setGrid g)) := by
  cases hhost : s.host with
  | nil =>
    rw [waitingBlockHoldsState s hhost, waitingBlockHoldsState (s.setGrid g) hhost]
    exact cellsUnread_next herr g
  | cons e rest =>
    rw [step_cons hhost, step_cons (s := s.setGrid g) hhost]
    exact serve_cellsUnread (s := s.setHost rest) herr g e

end InError

/-! ### Runs -/

theorem sameButCells_refl (o : Host.Outcome State Fault Refusal) : sameButCells o o := by
  cases o <;> rfl

/-- A run is determined by the outcome of its first step. -/
theorem runFor_succ_congr {s t : State} (h : step t = step s) (k : Nat) :
    runFor (k + 1) t = runFor (k + 1) s := by
  have hcore : Sys2Proof.core.step t = Sys2Proof.core.step s := h
  simp only [runFor, Host.Core.run, hcore]
  rfl

/-- Settles O59, by induction on the length of the run: if the first step makes the states equal, so are the
rest of the runs, and otherwise the states after it again have ERR = 1 and differ only in their cells. -/
theorem partialMatrixIsUnobservable : Obligations.PartialMatrixIsUnobservable := by
  unfold Obligations.PartialMatrixIsUnobservable
  intro k
  induction k with
  | zero => exact fun s g _ => rfl
  | succ k ih =>
    intro s g herr
    rcases step_cellsUnread herr g with hsame | ⟨t, ht, hs, hs'⟩
    · rw [runFor_succ_congr hsame]
      exact sameButCells_refl _
    · rw [runFor_succ hs, runFor_succ hs']
      exact ih t g ht

end Sys2Proof.Machine

/-! The decoder and the encoder (30_encoding.md R61 to R68). A field whose bits a row's mask takes in has the
pattern's value in every word of the row, and the other fields read back; so a word that a row accepts is
put together again by its format, and each direction of the encoding is one case per command. -/

namespace Sys2Proof.Machine

/-! ### Decoding an encoded command (30_encoding.md R64) -/

theorem decode_encode_msbpos : decode (encode .msbpos) = .command .msbpos :=
  decode_encode_of_fields Laws.TableRow.msbpos rfl rfl

theorem decode_encode_bchrem : decode (encode .bchrem) = .command .bchrem :=
  decode_encode_of_fields Laws.TableRow.bchrem rfl rfl

/-- Settles O1: each command's word belongs to its row, and its fields read back. -/
theorem decodeInvertsEncode : Obligations.DecodeInvertsEncode := by
  unfold Obligations.DecodeInvertsEncode
  intro i hwf
  cases i with
  | clear => exact decode_encode_clear
  | embpat => exact decode_encode_embpat
  | embfmt => exact decode_encode_embfmt
  | embdata vs1 => exact decode_encode_embdata vs1
  | encode vs1 => exact decode_encode_encode vs1
  | msbpos => exact decode_encode_msbpos
  | bchrem => exact decode_encode_bchrem
  | fmtbits => exact decode_encode_fmtbits
  | get x y => exact decode_encode_get x y
  | set x y b => exact decode_encode_set x y b
  | vclr vd => exact decode_encode_vclr vd
  | vapp vd nb => exact decode_encode_vapp vd (of_decide_eq_true hwf)
  | vxor vd vs1 vs2 => exact decode_encode_vxor vd vs1 vs2
  | vget vs1 => exact decode_encode_vget vs1
  | vlen vs1 => exact decode_encode_vlen vs1

/-- A word that is a well-formed command's encoding decodes to it. -/
theorem decode_of_encode_eq {i : Instr} {w : Word} (hword : encode i = w) (hwf : i.wellFormed = true) :
    decode w = .command i :=
  hword ▸ decodeInvertsEncode i hwf

/-- Settles O6: each word is its command's encoding. -/
theorem writtenWordsDecode : Obligations.WrittenWordsDecode := by
  unfold Obligations.WrittenWordsDecode
  refine ⟨?_, ?_, ?_, ?_, ?_, ?_, ?_, ?_⟩ <;> exact decode_of_encode_eq (by decide) rfl

/-! ### Encoding a decoded word (30_encoding.md R65, R66) -/

/-- A field that the mask takes in whole has the pattern's value. -/
theorem field_of_masked {w mask pattern : Word} {start len : Nat} (h : w &&& mask = pattern)
    (hmask : mask.extractLsb' start len = BitVec.allOnes len) :
    w.extractLsb' start len = pattern.extractLsb' start len := by
  calc w.extractLsb' start len
    _ = w.extractLsb' start len &&& mask.extractLsb' start len := by rw [hmask, BitVec.and_allOnes]
    _ = (w &&& mask).extractLsb' start len := BitVec.extractLsb'_and.symm
    _ = pattern.extractLsb' start len := by rw [h]

@[simp] theorem vregField_vregOfField (f : BitVec 2) : vregField (vregOfField f) = f := by
  revert f
  decide

theorem ofBool_fieldB (w : Word) : BitVec.ofBool (fieldB w) = w.extractLsb' 16 1 := by
  refine BitVec.eq_of_getLsbD_eq fun i hi => ?_
  obtain rfl : i = 0 := by omega
  simp [fieldB]

/-- A word of format C is its adjacent fields, from the opcode down (30_encoding.md R61). -/
theorem formatC_of_fields {w : Word} {opc : BitVec 8} (hopc : fieldOpc w = opc)
    (hzero : w.extractLsb' 17 7 = 0#7) : formatC opc (fieldB w) (fieldX w) (fieldY w) = w := by
  rw [formatC, ← hopc, ← hzero, ofBool_fieldB, fieldOpc, fieldX, fieldY]
  simp (disch := decide) only [BitVec.extractLsb'_append_extractLsb'_eq_extractLsb']
  exact BitVec.extractLsb'_eq_self

/-- A word of format V is its adjacent fields, from the opcode down (30_encoding.md R61). -/
theorem formatV_of_fields {w : Word} {opc : BitVec 8} {vd vs1 vs2 : BitVec 2} {nb : BitVec 6}
    (hopc : fieldOpc w = opc) (hvd : w.extractLsb' 22 2 = vd) (hvs1 : w.extractLsb' 20 2 = vs1)
    (hvs2 : w.extractLsb' 18 2 = vs2) (hzero : w.extractLsb' 6 12 = 0#12) (hnb : fieldNb w = nb) :
    formatV opc vd vs1 vs2 nb = w := by
  rw [formatV, ← hopc, ← hvd, ← hvs1, ← hvs2, ← hzero, ← hnb, fieldOpc, fieldNb]
  simp (disch := decide) only [BitVec.extractLsb'_append_extractLsb'_eq_extractLsb']
  exact BitVec.extractLsb'_eq_self

/-- A word of format N is its row's pattern. -/
theorem formatN_of_masked {w : Word} {opc : BitVec 8} (h : w &&& 0xFFFFFFFF#32 = opc ++ 0#24) :
    formatN opc = w := by
  rw [formatN, ← h]
  exact BitVec.and_allOnes

/-- A word of format V whose one field is VS1. -/
theorem formatV_of_masked_vs1 {w : Word} {opc : BitVec 8} (h : w &&& 0xFFCFFFFF#32 = opc ++ 0#24) :
    formatV opc 0#2 (vregField (fieldVs1 w)) 0#2 0#6 = w := by
  have hzero (start len : Nat) (hmask : (0xFFCFFFFF#32).extractLsb' start len = BitVec.allOnes len)
      (hlow : start + len ≤ 24) : w.extractLsb' start len = 0#len := by
    rw [field_of_masked h hmask, BitVec.extractLsb'_append_eq_of_add_le hlow, BitVec.extractLsb'_zero]
  have hopc : fieldOpc w = opc :=
    (field_of_masked h (by decide)).trans BitVec.extractLsb'_append_eq_left
  exact formatV_of_fields hopc (hzero 22 2 (by decide) (by decide)) (vregField_vregOfField _).symm
    (hzero 18 2 (by decide) (by decide)) (hzero 6 12 (by decide) (by decide))
    (hzero 0 6 (by decide) (by decide))

/-- A word equal to a row's pattern under its mask is the encoding of the command the row reads off it. -/
theorem encode_readFields {r : OpRow} {w : Word} (hr : r ∈ opTable) (h : w &&& r.mask = r.pattern) :
    encode (readFields r.op w) = w := by
  simp only [opTable, List.cons_append, List.nil_append, List.mem_cons, List.not_mem_nil, or_false] at hr
  rcases hr with rfl | rfl | rfl | rfl | rfl | rfl | rfl | rfl | rfl | rfl | rfl | rfl | rfl | rfl | rfl
  · exact formatN_of_masked (opc := 0x01#8) h
  · exact formatN_of_masked (opc := 0x02#8) h
  · exact formatN_of_masked (opc := 0x03#8) h
  · exact formatV_of_masked_vs1 (opc := 0x04#8) h
  · exact formatV_of_masked_vs1 (opc := 0x05#8) h
  · exact formatN_of_masked (opc := 0x08#8) h
  · exact formatN_of_masked (opc := 0x09#8) h
  · exact formatN_of_masked (opc := 0x0A#8) h
  · have hb : fieldB w = false := by
      have hfield := field_of_masked (start := 16) (len := 1) h (by decide)
      rw [← ofBool_fieldB] at hfield
      exact BitVec.ofBool_eq_iff_eq.1 hfield
    rw [readFields, encode, ← hb]
    exact formatC_of_fields (field_of_masked h (by decide)) (field_of_masked h (by decide))
  · exact formatC_of_fields (field_of_masked h (by decide)) (field_of_masked h (by decide))
  · exact formatV_of_fields (field_of_masked h (by decide)) (vregField_vregOfField _).symm
      (field_of_masked h (by decide)) (field_of_masked h (by decide)) (field_of_masked h (by decide))
      (field_of_masked h (by decide))
  · exact formatV_of_fields (field_of_masked h (by decide)) (vregField_vregOfField _).symm
      (field_of_masked h (by decide)) (field_of_masked h (by decide)) (field_of_masked h (by decide)) rfl
  · exact formatV_of_fields (field_of_masked h (by decide)) (vregField_vregOfField _).symm
      (vregField_vregOfField _).symm (vregField_vregOfField _).symm (field_of_masked h (by decide))
      (field_of_masked h (by decide))
  · exact formatV_of_masked_vs1 (opc := 0x1B#8) h
  · exact formatV_of_masked_vs1 (opc := 0x1C#8) h

/-- The extra condition of a row is the well-formedness of the command (30_encoding.md R67). -/
theorem wellFormed_readFields (op : Op) (w : Word) :
    (readFields op w).wellFormed = extraCondition op w := by
  cases op <;> rfl

/-- Settles O2: the word equals the pattern of a row under its mask, and the row's extra condition holds. -/
theorem encodeInvertsDecode : Obligations.EncodeInvertsDecode := by
  unfold Obligations.EncodeInvertsDecode
  intro w i hd
  obtain ⟨r, hr, hacc, rfl⟩ := decode_eq_command hd
  obtain ⟨hpat, hextra⟩ := OpRow.accepts_iff.1 hacc
  exact ⟨encode_readFields hr hpat, (wellFormed_readFields r.op w).trans hextra⟩

/-! ### Reserved opcodes (30_encoding.md R66, R68) -/

/-- The opcodes of the table's rows. -/
theorem opTable_opcodes : ∀ r ∈ opTable, fieldOpc r.pattern ∈ [0x01#8, 0x02#8, 0x03#8, 0x04#8, 0x05#8,
    0x08#8, 0x09#8, 0x0A#8, 0x10#8, 0x11#8, 0x18#8, 0x19#8, 0x1A#8, 0x1B#8, 0x1C#8] := by decide

/-- Settles O4: a row that accepted the word would give it its own opcode. -/
theorem reservedOpcodesAreIllegal : Obligations.ReservedOpcodesAreIllegal := by
  unfold Obligations.ReservedOpcodesAreIllegal
  intro w hreserved
  refine decode_illegal_of_not_accepts fun r hr hacc => hreserved ?_
  rw [fieldOpc_of_accepts hr hacc]
  exact opTable_opcodes r hr

end Sys2Proof.Machine

/-! The register block: what a host access does to each register, what a reset leaves, and that ERR is sticky
(10_state.md R20 to R43, 60_exceptions.md R180, R181, 70_reset_and_hazards.md R200). -/

namespace Sys2Proof.Machine

/-! ### The host's accesses (20_memory.md R53) -/

/-- Settles O9: the one access that a step serves is the first of the list. -/
theorem stepServesOneAccess : Obligations.StepServesOneAccess := by
  unfold Obligations.StepServesOneAccess
  exact fun s t h => step_host h

/-! ### Reads (20_memory.md R54) -/

/-- STATUS as the or of its two fields, each shifted to its place (10_state.md R23, R24). -/
theorem statusWord_eq_or (err : Bool) (ecode : BitVec 4) :
    statusWord err ecode = (ecode.setWidth 32 <<< 8) ||| (BitVec.ofBool err).setWidth 32 := by
  cases err <;> revert ecode <;> decide

theorem reservedCode_iff (e : BitVec 4) : reservedCode e = true ↔ 12 ≤ e.toNat := decide_eq_true_iff

/-- A read of a register returns its word and changes nothing else, unless it is of STATUS with a reserved
code. -/
theorem step_read_returns {r : HostReg} {s : State} {rest : List HostEvent}
    (hr : s.host = .read r.offset 32 :: rest) (hcode : ¬(r = .status ∧ reservedCode s.ecode = true)) :
    step s = .next { s with host := rest, observed := s.observed ++ [readWord r s] } := by
  have hword : readWord r (s.setHost rest) = readWord r s := by cases r <;> rfl
  rw [step_read hr, hostRead, State.setHost_ecode, if_neg hcode, hword]
  rfl

/-- Settles O12: each offset is a register's, and the word is what the register reads as. -/
theorem hostReadsReturnRegisters : Obligations.HostReadsReturnRegisters := by
  unfold Obligations.HostReadsReturnRegisters
  intro s offset rest w hr hw
  rcases hw with ⟨rfl, rfl⟩ | ⟨rfl, hcode, rfl⟩ | ⟨rfl, rfl⟩ | ⟨rfl, rfl⟩ | ⟨rfl, rfl⟩ | ⟨rfl, rfl⟩ |
    ⟨rfl, rfl⟩ | ⟨rfl, rfl⟩ | ⟨rfl, rfl⟩ | ⟨rfl, rfl⟩
  · exact step_read_returns (r := .cmd) hr nofun
  · rw [← statusWord_eq_or]
    refine step_read_returns (r := .status) hr fun h => ?_
    exact absurd ((reservedCode_iff _).1 h.2) (Nat.not_le.2 hcode)
  · exact step_read_returns (r := .cfg) hr nofun
  · exact step_read_returns (r := .dim) hr nofun
  · exact step_read_returns (r := .opa) hr nofun
  · exact step_read_returns (r := .opb) hr nofun
  · exact step_read_returns (r := .res) hr nofun
  · exact step_read_returns (r := .fmt) hr nofun
  · exact step_read_returns (r := .consumed) hr nofun
  · exact step_read_returns (r := .total) hr nofun

/-- Settles O13: the read faults on a reserved code, and on any other it returns a next state. -/
theorem reservedErrorCodeFaults : Obligations.ReservedErrorCodeFaults := by
  unfold Obligations.ReservedErrorCodeFaults
  intro s rest hr
  rw [← reservedCode_iff]
  constructor
  · intro hfault
    by_contra hcode
    rw [step_read_returns (r := .status) hr fun h => hcode h.2] at hfault
    cases hfault
  · intro hcode
    rw [step_read (r := .status) hr, hostRead]
    exact if_pos ⟨rfl, hcode⟩

/-! ### OPA and OPB (10_state.md R33, R34) -/

/-- Settles O16: the writes are `State.setOpa` and `State.setOpb` on the state without the served access,
and both registers are among what no command writes. -/
theorem operandRegisters : Obligations.OperandRegisters := by
  unfold Obligations.OperandRegisters
  exact ⟨fun s w rest hw => step_write (r := .opa) hw, fun s w rest hw => step_write (r := .opb) hw,
    fun i s t h => ⟨(exec_sameInputs h).opa, (exec_sameInputs h).opb⟩, rfl, rfl⟩

/-! ### STATUS (10_state.md R23, R24; 60_exceptions.md R180, R181) -/

/-- Settles O21: the codes are evaluated, and a raise is that update of the state. -/
theorem errorCodes : Obligations.ErrorCodes := by
  unfold Obligations.ErrorCodes
  exact ⟨by decide, fun s e => rfl⟩

/-- Only an access at a register's own offset, 32 bits wide, reaches it (20_memory.md R52). -/
theorem busTarget_eq_register {offset : BitVec 6} {bits : Nat} {r : HostReg}
    (h : busTarget offset bits = .register r) : offset = r.offset ∧ bits = 32 := by
  obtain ⟨h4, rfl, -⟩ := (busTarget_register_iff offset bits).1 ⟨r, h⟩
  rw [busTarget, if_neg (not_not.2 h4), if_neg (not_not.2 rfl)] at h
  cases hat : HostReg.at offset with
  | none => rw [hat] at h; cases h
  | some r' =>
    rw [hat] at h
    cases h
    exact ⟨(beq_iff_eq.1 (List.find?_some (p := fun r : HostReg => r.offset == offset) hat)).symm, rfl⟩

/-- While ERR = 1 a write to a register leaves STATUS, unless it issues CLEAR or ENCODE (30_encoding.md
R63). -/
theorem hostWrite_sticky {r : HostReg} {w : Word} {s t : State} (herr : s.err = true)
    (h : hostWrite r w s = .next t) :
    s.sameStatus t ∨ r = .cmd ∧ (decode w = .command .clear ∨ ∃ v, decode w = .command (.encode v)) := by
  rcases hostWrite_cases r w s with ⟨rfl, hw⟩ | ⟨-, hw⟩ | ⟨-, hw⟩ | ⟨-, hw⟩ | ⟨-, hw⟩ | hw <;> rw [hw] at h
  case inl =>
    rcases issue_cases w s with ⟨-, hi, -⟩ | ⟨hnoerr, -, -⟩ | ⟨i, hd, hacc, -⟩
    · rw [hi] at h
      cases h
      exact .inl s.sameStatus_refl
    · rw [herr] at hnoerr
      cases hnoerr
    · rw [herr] at hacc
      rcases acceptedInError_iff.1 (hacc.resolve_left nofun) with rfl | ⟨v, rfl⟩
      · exact .inr ⟨rfl, .inl hd⟩
      · exact .inr ⟨rfl, .inr ⟨v, hd⟩⟩
  case inr.inr.inl =>
    cases h
    rcases s.setDim_cases w with ⟨-, -, hd⟩ | ⟨-, hd⟩ <;> rw [hd] <;> exact .inl ⟨rfl, rfl⟩
  all_goals cases h; exact .inl ⟨rfl, rfl⟩

/-- Settles O20: a step that does not serve a reset, CLEAR or ENCODE leaves STATUS as it is. -/
theorem errorIsSticky : Obligations.ErrorIsSticky := by
  unfold Obligations.ErrorIsSticky
  refine ⟨fun s w rest hw => step_write (r := .status) hw, fun s t herr h hchanged => ?_⟩
  have hnot : ¬ s.sameStatus t := by
    rintro ⟨herr', hcode⟩
    rcases hchanged with hc | hc
    · rw [herr', herr] at hc
      cases hc
    · exact hc hcode
  rcases step_next_cases h with ⟨-, rfl⟩ | ⟨e, rest, hs, ⟨rfl, -⟩ | ⟨_, _, _, -, -, rfl⟩ |
    ⟨offset, bits, w, r, rfl, hbus, hw⟩⟩
  · exact absurd (State.sameStatus_refl _) hnot
  · exact ⟨rest, .inl hs⟩
  · exact absurd ⟨rfl, rfl⟩ hnot
  · rcases hostWrite_sticky (s := s.setHost rest) herr hw with hsame | ⟨rfl, hcommand⟩
    · exact absurd hsame hnot
    · obtain ⟨rfl, rfl⟩ := busTarget_eq_register hbus
      exact ⟨rest, .inr ⟨w, hs, hcommand⟩⟩

/-! ### Reset (70_reset_and_hazards.md R200) -/

/-- The state t is as a reset under the parameters p leaves it, but for the cells and the model's own
fields, of which the reset table says nothing. -/
def State.isReset (p : Params) (t : State) : Prop :=
  ∃ grid draws host observed, t = { State.resetWith p with
    grid := grid, draws := draws, host := host, observed := observed }

theorem State.isReset_resetWith (p : Params) : (State.resetWith p).isReset p := ⟨_, _, _, _, rfl⟩

theorem State.isReset_hostReset (s : State) : (hostReset s).isReset s.params := ⟨_, _, _, _, rfl⟩

/-- NMAX is below 32, so DIM's five bits hold it whole. -/
theorem State.isReset.dim_toNat {p : Params} {t : State} (h : t.isReset p) :
    t.dim.toNat = p.nmax := by
  obtain ⟨_, _, _, _, rfl⟩ := h
  exact Nat.mod_eq_of_lt p.nmax.isLt

theorem step_reset {s : State} {rest : List HostEvent} (h : s.host = .reset :: rest) :
    step s = .next (hostReset (s.setHost rest)) := step_cons h

/-- Settles O22: either way the state is one that a reset leaves. -/
theorem resetValues : Obligations.ResetValues := by
  unfold Obligations.ResetValues
  refine ⟨fun t ht => ?_, fun s rest hs => ⟨_, step_reset hs, rfl, rfl⟩⟩
  have hreset : ∃ p, t.isReset p := by
    rcases ht with ⟨p, rfl⟩ | ⟨s, rest, hs, hstep⟩
    · exact ⟨p, State.isReset_resetWith p⟩
    · rw [step_reset hs] at hstep
      cases hstep
      exact ⟨_, State.isReset_hostReset _⟩
  obtain ⟨p, hp⟩ := hreset
  have hdim := hp.dim_toNat
  obtain ⟨_, _, _, _, rfl⟩ := hp
  exact ⟨rfl, rfl, rfl, hdim, rfl, rfl, rfl, rfl, rfl, rfl, fun v => by cases v <;> rfl⟩

/-! ### The parameters (10_state.md R20) -/

theorem hostWrite_params {r : HostReg} {w : Word} {s t : State} (h : hostWrite r w s = .next t) :
    t.params = s.params := by
  rcases hostWrite_next_cases h with rfl | ⟨i, hi⟩ | ⟨_, _, _, _, _, _, rfl⟩
  · rfl
  · exact (exec_sameInputs hi).params
  · rfl

theorem step_params {s t : State} (h : step s = .next t) : t.params = s.params := by
  rcases step_next_cases h with ⟨-, rfl⟩ | ⟨e, rest, -, ⟨-, rfl⟩ | ⟨_, _, _, -, -, rfl⟩ |
    ⟨_, _, _, _, -, -, hw⟩⟩
  · rfl
  · rfl
  · rfl
  · exact hostWrite_params (s := s.setHost rest) hw

/-- The spec's default parameters meet what the spec requires of parameters. -/
theorem paramsStandard_legal : Params.standard.legal := by decide

/-- Settles O60: no step changes the parameters, and the defaults are evaluated. -/
theorem parametersAreFixed : Obligations.ParametersAreFixed := by
  unfold Obligations.ParametersAreFixed
  exact ⟨fun s t h => step_params h, rfl, rfl, rfl, paramsStandard_legal⟩

end Sys2Proof.Machine

/-! The data placer's refinement and its overflow (46_placer.md R150, R155, R156), and what the four
commands that write FMT, CONSUMED and TOTAL leave in them (10_state.md R37 to R39). -/

namespace Sys2Proof.Machine

/-! ### The traversal and DataOverflow (46_placer.md R150, R155, R156) -/

/-- Settles O48: `placeAll` is the way down a list of cells. -/
theorem traversalFollowsVisitingOrder : Obligations.TraversalFollowsVisitingOrder := by
  unfold Obligations.TraversalFollowsVisitingOrder
  exact fun p dim g => place_eq_placeAll p dim g

/-- A payload longer than its cells fills them all, and DataOverflow is raised over what was written. -/
theorem embdataStageWith_of_overflow {s : State} {mask : Option (Fin 4)}
    (hmask : placerMask (cfgMaskv s.cfg) = some mask) (fn : MaskFn) (vs1 : VReg)
    (hover : (placerCells s.dim.toNat s.grid).length < (s.vec vs1).length) :
    embdataStageWith fn vs1 s = .failed .dataOverflow
      ((s.setGrid (place ⟨s.vec vs1, mask, fn⟩ s.side s.grid).1).setCounts
        (BitVec.ofNat 32 (placerCells s.dim.toNat s.grid).length)
        (BitVec.ofNat 32 (s.vec vs1).length)) := by
  have hcount : (place ⟨s.vec vs1, mask, fn⟩ s.side s.grid).2 =
      (placerCells s.dim.toNat s.grid).length :=
    (place_spec _ s).1.trans (Nat.min_eq_left hover.le)
  rw [embdataStageWith, hmask]
  simp only [hcount, ne_eq, hover.ne, not_false_eq_true, if_true]

/-- Every cell that the placer writes gets a bit's code. -/
theorem place_light_or_dark (p : Payload) {s : State} {x y : Nat}
    (h : (x, y) ∈ placerCells s.dim.toNat s.grid) :
    (place p s.side s.grid).1.cell x y = .light ∨ (place p s.side s.grid).1.cell x y = .dark := by
  obtain ⟨-, hcells, -⟩ := place_spec p s
  obtain ⟨k, hk⟩ := List.mem_iff_getElem?.1 h
  rw [hcells k (x, y) hk]
  cases p.bitAt k x y
  · exact .inl rfl
  · exact .inr rfl

/-- Settles O50: the stage fails with DataOverflow, over the cells that the traversal leaves. -/
theorem embdataOverflowReportsCounts : Obligations.EmbdataOverflowReportsCounts := by
  unfold Obligations.EmbdataOverflowReportsCounts
  intro vs1 s hlow hhigh hover
  obtain ⟨mask, hmask⟩ := placerMask_of_legal hlow hhigh
  obtain ⟨-, -, hframe⟩ := place_spec ⟨s.vec vs1, mask, Config.maskFn⟩ s
  exact ⟨_, exec_of_failed (i := .embdata vs1) (embdataStageWith_of_overflow hmask _ vs1 hover),
    fun x y hmem => place_light_or_dark _ hmem, hframe⟩

/-! ### CONSUMED and TOTAL after a stage (46_placer.md R156) -/

/-- The stage has written CONSUMED and TOTAL for a payload of the given length: no more bits are consumed
than there are, and no error but DataOverflow comes after that. -/
def Ending.counted (r : Ending State) (length : Nat) : Prop :=
  ∃ n ≤ length, r.last.consumed = BitVec.ofNat 32 n ∧ r.last.total = BitVec.ofNat 32 length ∧
    ∀ e t, r = .failed e t → e = .dataOverflow

/-- The states s and t agree in CONSUMED and TOTAL. -/
def State.sameCounts (s t : State) : Prop := t.consumed = s.consumed ∧ t.total = s.total

theorem State.sameCounts_refl (s : State) : s.sameCounts s := ⟨rfl, rfl⟩

/-- EMBDATA's stage stops at the mask check, or it writes the counts. -/
theorem embdataStageWith_counted (fn : MaskFn) (vs1 : VReg) (s : State) :
    embdataStageWith fn vs1 s = .failed .invalidMaskPattern s ∨
      (embdataStageWith fn vs1 s).counted (s.vec vs1).length := by
  cases hmask : placerMask (cfgMaskv s.cfg) with
  | none => exact .inl (by rw [embdataStageWith, hmask])
  | some mask =>
    right
    rcases Nat.lt_or_ge (placerCells s.dim.toNat s.grid).length (s.vec vs1).length with hover | hfits
    · rw [embdataStageWith_of_overflow hmask fn vs1 hover]
      exact ⟨_, hover.le, rfl, rfl, fun e t h => by cases h; rfl⟩
    · rw [embdataStageWith_of_fits hmask fn vs1 hfits]
      exact ⟨_, Nat.le_refl _, rfl, rfl, nofun⟩

theorem State.sameCounts_trans {s t u : State} (hst : s.sameCounts t) (htu : t.sameCounts u) :
    s.sameCounts u := ⟨htu.1.trans hst.1, htu.2.trans hst.2⟩

theorem embpatStage_sameCounts (s : State) : s.sameCounts (embpatStage s).last := by
  rcases embpatStage_cases s with ⟨g, h⟩ | h | ⟨g, h⟩ | ⟨g, h⟩ <;> rw [h] <;> exact ⟨rfl, rfl⟩

theorem embfmtStage_sameCounts (s : State) : s.sameCounts (embfmtStage s).last := by
  rcases embfmtStage_cases s with ⟨f, -, -, h⟩ | ⟨e, -, h⟩ | ⟨-, -, h⟩ <;> rw [h]
  · exact ⟨by simp, by simp⟩
  · exact s.sameCounts_refl
  · exact s.sameCounts_refl

theorem fmtbitsBody_sameCounts (s : State) : s.sameCounts (fmtbitsBody s).last := by
  rcases fmtbitsBody_cases s with ⟨f, -, h⟩ | ⟨e, -, h⟩ <;> rw [h] <;> exact ⟨rfl, rfl⟩

/-- ENCODE has stopped before its last stage, or ends as that stage does; the stages before it change the
symbol, FMT and STATUS only (47_encode.md R165). -/
theorem encodeBodyWith_cases (fn : MaskFn) (vs1 : VReg) (s : State) :
    ∃ t, s.sameButSymbol t ∧ s.sameCounts t ∧
      ((∃ e, encodeBodyWith fn vs1 s = .failed e t) ∨
        encodeBodyWith fn vs1 s = embdataStageWith fn vs1 t) := by
  have hsymbol : s.sameButSymbol ((embpatStage s.clearMatrix).andThen embfmtStage).last :=
    Ending.last_andThen (P := s.sameButSymbol)
      (State.sameButSymbol_trans s.sameButSymbol_clearMatrix (embpatStage_sameButSymbol _))
      fun t ht => State.sameButSymbol_trans ht (embfmtStage_sameButSymbol t)
  have hcounts : s.sameCounts ((embpatStage s.clearMatrix).andThen embfmtStage).last :=
    Ending.last_andThen (P := s.sameCounts) (embpatStage_sameCounts s.clearMatrix)
      fun t ht => State.sameCounts_trans ht (embfmtStage_sameCounts t)
  refine ⟨_, hsymbol, hcounts, ?_⟩
  rw [encodeBodyWith]
  cases (embpatStage s.clearMatrix).andThen embfmtStage with
  | done t => exact .inr rfl
  | failed e t => exact .inl ⟨e, rfl⟩

/-- ENCODE leaves the counts, or its last stage writes them for the payload it was given. -/
theorem encodeBodyWith_counted (fn : MaskFn) (vs1 : VReg) (s : State) :
    s.sameCounts (encodeBodyWith fn vs1 s).last ∨
      (encodeBodyWith fn vs1 s).counted (s.vec vs1).length := by
  obtain ⟨t, hsymbol, hcounts, ⟨e, h⟩ | h⟩ := encodeBodyWith_cases fn vs1 s <;> rw [h]
  · exact .inl hcounts
  · rw [← State.vec_of_sameButSymbol hsymbol vs1]
    rcases embdataStageWith_counted fn vs1 t with hmask | hcounted
    · rw [hmask]
      exact .inl hcounts
    · exact .inr hcounted

/-! ### Which command writes FMT, CONSUMED and TOTAL (10_state.md R37 to R39) -/

/-- A command leaves the counts, unless it ends with an EMBDATA stage that writes them. -/
theorem bodyOf_counts (i : Instr) (s : State) :
    s.sameCounts (bodyOf i s).last ∨
      ∃ v, (i = .embdata v ∨ i = .encode v) ∧ (bodyOf i s).counted (s.vec v).length := by
  cases i with
  | embdata vs1 =>
    rcases embdataStageWith_counted Config.maskFn vs1 s with hmask | hcounted
    · left
      rw [bodyOf, embdataStage, hmask]
      exact s.sameCounts_refl
    · exact .inr ⟨vs1, .inl rfl, hcounted⟩
  | encode vs1 =>
    exact (encodeBodyWith_counted Config.maskFn vs1 s).imp_right fun h => ⟨vs1, .inr rfl, h⟩
  | clear => exact .inl ⟨rfl, rfl⟩
  | embpat => exact .inl (embpatStage_sameCounts s)
  | embfmt => exact .inl (embfmtStage_sameCounts s)
  | fmtbits => exact .inl (fmtbitsBody_sameCounts s)
  | msbpos => exact .inl ⟨rfl, rfl⟩
  | vlen vs1 => exact .inl ⟨rfl, rfl⟩
  | bchrem => left; rw [bodyOf, bchremBody]; split <;> exact ⟨rfl, rfl⟩
  | get x y => left; rw [bodyOf, getBody]; split <;> exact ⟨rfl, rfl⟩
  | set x y b => left; rw [bodyOf, setBody]; split <;> exact ⟨rfl, rfl⟩
  | vget vs1 => left; rw [bodyOf, vgetBody]; split <;> exact ⟨rfl, rfl⟩
  | vclr vd => exact .inl ⟨by simp [bodyOf], by simp [bodyOf]⟩
  | vapp vd nb => left; rw [bodyOf, vappBody]; split <;> constructor <;> simp
  | vxor vd vs1 vs2 => left; rw [bodyOf, vxorBody]; split <;> constructor <;> simp

/-- A command other than FMTBITS, EMBFMT and ENCODE leaves FMT. -/
theorem bodyOf_fmt (i : Instr) (s : State) :
    (bodyOf i s).last.fmt = s.fmt ∨ i = .fmtbits ∨ i = .embfmt ∨ ∃ v, i = .encode v := by
  cases i with
  | fmtbits => exact .inr (.inl rfl)
  | embfmt => exact .inr (.inr (.inl rfl))
  | encode vs1 => exact .inr (.inr (.inr ⟨vs1, rfl⟩))
  | embdata vs1 =>
    left
    rw [bodyOf, embdataStage]
    rcases embdataStageWith_cases Config.maskFn vs1 s with h | ⟨g, n, ⟨-, h⟩ | ⟨-, h⟩⟩ <;> rw [h] <;> rfl
  | embpat =>
    left
    rw [bodyOf]
    rcases embpatStage_cases s with ⟨g, h⟩ | h | ⟨g, h⟩ | ⟨g, h⟩ <;> rw [h] <;> rfl
  | clear => exact .inl rfl
  | msbpos => exact .inl rfl
  | vlen vs1 => exact .inl rfl
  | bchrem => left; rw [bodyOf, bchremBody]; split <;> rfl
  | get x y => left; rw [bodyOf, getBody]; split <;> rfl
  | set x y b => left; rw [bodyOf, setBody]; split <;> rfl
  | vget vs1 => left; rw [bodyOf, vgetBody]; split <;> rfl
  | vclr vd => left; simp [bodyOf]
  | vapp vd nb => left; rw [bodyOf, vappBody]; split <;> simp
  | vxor vd vs1 vs2 => left; rw [bodyOf, vxorBody]; split <;> simp

@[simp] theorem Ending.settle_fmt (r : Ending State) : r.settle.fmt = r.last.fmt := by
  cases r <;> rfl

@[simp] theorem Ending.settle_consumed (r : Ending State) : r.settle.consumed = r.last.consumed := by
  cases r <;> rfl

@[simp] theorem Ending.settle_total (r : Ending State) : r.settle.total = r.last.total := by
  cases r <;> rfl

theorem Ending.settle_sameCounts {s : State} {r : Ending State} :
    s.sameCounts r.settle ↔ s.sameCounts r.last := by
  rw [State.sameCounts, Ending.settle_consumed, Ending.settle_total]
  rfl

/-- A command that sets ERR has raised an error over the writes its body made. -/
theorem exec_raised {i : Instr} {s t : State} (herr : s.err = false) (h : exec i s = .next t)
    (hraise : t.err = true) : ∃ e u, bodyOf i s = .failed e u ∧ t = u.raise e := by
  have hstatus := bodyOf_status i s
  rw [exec_eq_next_iff] at h
  subst h
  cases hr : bodyOf i s with
  | failed e u => exact ⟨e, u, rfl, rfl⟩
  | done u =>
    rw [hr] at hstatus hraise
    have hclear : u.err = false := by
      rcases hstatus with ⟨hkeep, -⟩ | ⟨-, hkeep, -⟩
      · exact hkeep.trans herr
      · exact hkeep
    rw [Ending.settle_done, hclear] at hraise
    cases hraise

/-- FMTBITS and EMBFMT raise over the state as it was (45_format.md R145). -/
theorem bodyOf_format_failed {i : Instr} {s t : State} {e : ErrorKind} (hi : i = .fmtbits ∨ i = .embfmt)
    (h : bodyOf i s = .failed e t) : t = s := by
  rcases hi with rfl | rfl <;> rw [bodyOf] at h
  · rcases fmtbitsBody_cases s with ⟨f, -, hb⟩ | ⟨e', -, hb⟩ <;> rw [hb] at h <;> cases h
    rfl
  · rcases embfmtStage_cases s with ⟨f, -, -, hb⟩ | ⟨e', -, hb⟩ | ⟨-, -, hb⟩ <;> rw [hb] at h <;> cases h
    · rfl
    · rfl

/-- Settles O18: the other commands' bodies leave FMT, and FMTBITS and EMBFMT raise over the state as it
was. -/
theorem formatRegister : Obligations.FormatRegister := by
  unfold Obligations.FormatRegister
  refine ⟨fun i s t h hne => ?_, fun i s t hi herr h hraise => ?_,
    fun s w rest hw => step_write (r := .fmt) hw, rfl⟩
  · rw [exec_eq_next_iff] at h
    subst h
    rw [Ending.settle_fmt] at hne
    exact (bodyOf_fmt i s).resolve_left hne
  · obtain ⟨e, u, hbody, rfl⟩ := exec_raised herr h hraise
    rw [State.raise_fmt, bodyOf_format_failed hi hbody]

/-- Settles O19: a command leaves the counts or ends with a stage that writes them, after which only
DataOverflow can be raised. -/
theorem countRegisters : Obligations.CountRegisters := by
  unfold Obligations.CountRegisters
  refine ⟨fun i s t h hne => ?_, fun i s t herr h hraise hcode => ?_, fun s w rest hw => ?_, rfl, rfl⟩
  · rw [exec_eq_next_iff] at h
    subst h
    rcases bodyOf_counts i s with hsame | ⟨v, hi, n, -, -, htotal, -⟩
    · obtain ⟨hconsumed, htotal⟩ := Ending.settle_sameCounts.2 hsame
      exact absurd hne (by rw [hconsumed, htotal]; simp)
    · exact ⟨v, hi, (Ending.settle_total _).trans htotal⟩
  · obtain ⟨e, u, hbody, rfl⟩ := exec_raised herr h hraise
    have hcounts := bodyOf_counts i s
    rw [hbody] at hcounts
    rcases hcounts with hsame | ⟨v, -, n, -, -, -, honly⟩
    · exact hsame
    · obtain rfl := honly e u rfl
      exact absurd rfl hcode
  · rcases hw with hw | hw
    · exact step_write (r := .consumed) hw
    · exact step_write (r := .total) hw

end Sys2Proof.Machine

/-! INVALID cells and SYMTAB (10_state.md R31; 45_format.md R139). Every write of a command is of LIGHT, DARK
or EMPTY; and a pair of version and level keys at most one row of SYMTAB. -/

namespace Sys2Proof.Machine

/-! ### No command writes INVALID (10_state.md R31) -/

/-- Every INVALID cell of g' is one of g. -/
def noNewInvalid (g g' : Grid) : Prop := ∀ x y, g'.cell x y = .invalid → g.cell x y = .invalid

theorem noNewInvalid_refl (g : Grid) : noNewInvalid g g := fun _ _ h => h

theorem noNewInvalid.trans {g g' g'' : Grid} (h : noNewInvalid g g') (h' : noNewInvalid g' g'') :
    noNewInvalid g g'' := fun x y hxy => h x y (h' x y hxy)

theorem codeOfBit_ne_invalid (b : Bool) : codeOfBit b ≠ .invalid := by cases b <;> decide

theorem setCell_noNewInvalid (g : Grid) (x y : Nat) {c : Cell} (hc : c ≠ .invalid) :
    noNewInvalid g (g.setCell x y c) := by
  intro x' y' h
  rcases g.cell_setCell_cases x y c x' y' with hkeep | hnew
  · exact hkeep.symm.trans h
  · exact absurd (hnew.symm.trans h) hc

theorem writeFresh_noNewInvalid {l : List CellWrite} (hl : ∀ c ∈ l, c.2.2 ≠ .invalid) (g : Grid) :
    noNewInvalid g (writeFresh l g).last := by
  induction l generalizing g with
  | nil => exact noNewInvalid_refl g
  | cons c l ih =>
    obtain ⟨x, y, k⟩ := c
    obtain ⟨hk, hl'⟩ := List.forall_mem_cons.1 hl
    rw [writeFresh]
    split
    · exact noNewInvalid_refl g
    · exact (setCell_noNewInvalid g x y hk).trans (ih hl' _)

theorem writeTiming_noNewInvalid {l : List CellWrite} (hl : ∀ c ∈ l, c.2.2 ≠ .invalid) (g : Grid) :
    noNewInvalid g (writeTiming l g).last := by
  induction l generalizing g with
  | nil => exact noNewInvalid_refl g
  | cons c l ih =>
    obtain ⟨x, y, k⟩ := c
    obtain ⟨hk, hl'⟩ := List.forall_mem_cons.1 hl
    rw [writeTiming]
    split
    · exact noNewInvalid_refl g
    · split
      · exact (setCell_noNewInvalid g x y hk).trans (ih hl' _)
      · exact ih hl' g

theorem regionWrites_ne_invalid : ∀ c ∈ regionWrites, c.2.2 ≠ .invalid := by decide

theorem timingWrites_ne_invalid (dim : Nat) : ∀ c ∈ timingWrites dim, c.2.2 ≠ .invalid := by
  rintro ⟨x, y, c⟩ hc
  obtain ⟨-, rfl⟩ := mem_timingWrites.1 hc
  exact codeOfBit_ne_invalid _

theorem embpatStage_noNewInvalid (s : State) : noNewInvalid s.grid (embpatStage s).last.grid := by
  by_cases h : s.side < 8
  · rw [embpatStage_small s h]
    exact noNewInvalid_refl _
  · rw [embpatStage_runs (Nat.not_lt.1 h), Ending.last_map]
    exact Ending.last_andThen (P := noNewInvalid s.grid)
      (writeFresh_noNewInvalid regionWrites_ne_invalid s.grid)
      fun g hg => hg.trans (writeTiming_noNewInvalid (timingWrites_ne_invalid _) g)

theorem writeFormat_noNewInvalid (f : BitVec 15) (g : Grid) : noNewInvalid g (writeFormat f g) := by
  obtain ⟨hwritten, hother⟩ := writeFormat_spec f g
  intro x y h
  by_cases hxy : ∃ i < 15, fmtPos i = (x, y)
  · obtain ⟨i, hi, hpos⟩ := hxy
    have hcell := hwritten i hi
    rw [hpos] at hcell
    exact absurd (hcell.symm.trans h) (codeOfBit_ne_invalid _)
  · rwa [hother x y fun i hi hpos => hxy ⟨i, hi, hpos⟩] at h

theorem embfmtStage_noNewInvalid (s : State) : noNewInvalid s.grid (embfmtStage s).last.grid := by
  rcases embfmtStage_cases s with ⟨f, -, -, h⟩ | ⟨e, -, h⟩ | ⟨-, -, h⟩ <;> rw [h]
  · exact writeFormat_noNewInvalid f s.grid
  · exact noNewInvalid_refl _
  · exact noNewInvalid_refl _

theorem place_noNewInvalid (p : Payload) (s : State) :
    noNewInvalid s.grid (place p s.side s.grid).1 := by
  obtain ⟨-, -, hframe⟩ := place_spec p s
  intro x y h
  by_cases hmem : (x, y) ∈ placerCells s.dim.toNat s.grid
  · rcases place_light_or_dark p hmem with hcell | hcell <;> rw [hcell] at h <;> cases h
  · exact (hframe x y hmem).symm.trans h

theorem embdataStageWith_noNewInvalid (fn : MaskFn) (vs1 : VReg) (s : State) :
    noNewInvalid s.grid (embdataStageWith fn vs1 s).last.grid := by
  rw [← Ending.settle_grid]
  cases hmask : placerMask (cfgMaskv s.cfg) with
  | none =>
    rw [embdataStageWith, hmask]
    exact noNewInvalid_refl _
  | some mask =>
    rw [embdataStageWith_settle_grid hmask]
    exact place_noNewInvalid _ s

/-- The clear leaves no INVALID cell below NMAX, and no stage after it writes one. -/
theorem encodeBodyWith_noNewInvalid (fn : MaskFn) (vs1 : VReg) (s : State) :
    noNewInvalid (Grid.cleared s.params.nmax) (encodeBodyWith fn vs1 s).last.grid :=
  Ending.last_andThen (P := fun t => noNewInvalid _ t.grid)
    (Ending.last_andThen (P := fun t => noNewInvalid _ t.grid) (embpatStage_noNewInvalid s.clearMatrix)
      fun t ht => ht.trans (embfmtStage_noNewInvalid t))
    fun t ht => ht.trans (embdataStageWith_noNewInvalid fn vs1 t)

theorem setBody_noNewInvalid (x y : BitVec 8) (b : Bool) (s : State) :
    noNewInvalid s.grid (setBody x y b s).last.grid := by
  rw [setBody]
  split
  · exact noNewInvalid_refl _
  · exact setCell_noNewInvalid _ _ _ (codeOfBit_ne_invalid b)

/-- Every INVALID cell that a command leaves was there before it, or is there in the cleared matrix, that
is, lies beyond NMAX. -/
theorem bodyOf_noNewInvalid (i : Instr) (s : State) :
    noNewInvalid s.grid (bodyOf i s).last.grid ∨
      noNewInvalid (Grid.cleared s.params.nmax) (bodyOf i s).last.grid := by
  cases i with
  | clear => exact .inr (noNewInvalid_refl _)
  | encode vs1 => exact .inr (encodeBodyWith_noNewInvalid _ vs1 s)
  | embpat => exact .inl (embpatStage_noNewInvalid s)
  | embfmt => exact .inl (embfmtStage_noNewInvalid s)
  | embdata vs1 => exact .inl (embdataStageWith_noNewInvalid _ vs1 s)
  | set x y b => exact .inl (setBody_noNewInvalid x y b s)
  | fmtbits =>
    left
    rw [bodyOf]
    rcases fmtbitsBody_cases s with ⟨f, -, h⟩ | ⟨e, -, h⟩ <;> rw [h] <;> exact noNewInvalid_refl _
  | msbpos => exact .inl (noNewInvalid_refl _)
  | vlen vs1 => exact .inl (noNewInvalid_refl _)
  | bchrem => left; rw [bodyOf, bchremBody]; split <;> exact noNewInvalid_refl _
  | get x y => left; rw [bodyOf, getBody]; split <;> exact noNewInvalid_refl _
  | vget vs1 => left; rw [bodyOf, vgetBody]; split <;> exact noNewInvalid_refl _
  | vclr vd => left; simp [bodyOf, noNewInvalid_refl]
  | vapp vd nb => left; rw [bodyOf, vappBody]; split <;> simp [noNewInvalid_refl]
  | vxor vd vs1 vs2 => left; rw [bodyOf, vxorBody]; split <;> simp [noNewInvalid_refl]

/-- Settles O28: below NMAX the cleared matrix has no INVALID cell. -/
theorem noCommandWritesInvalid : Obligations.NoCommandWritesInvalid := by
  unfold Obligations.NoCommandWritesInvalid
  intro i s t x y h hx hy hinvalid
  rw [exec_eq_next_iff] at h
  subst h
  rw [Ending.settle_grid] at hinvalid
  rcases bodyOf_noNewInvalid i s with hbody | hbody
  · exact hbody x y hinvalid
  · have hcleared := hbody x y hinvalid
    rw [Grid.cell_cleared (Nat.le_of_lt_succ s.params.nmax.isLt) hx hy] at hcleared
    cases hcleared

/-! ### SYMTAB (45_format.md R139, 00_scope.md R12) -/

/-- The pairs that key SYMTAB's rows, version 1's entry among them, are distinct. -/
theorem symtabRows_key_injective {p : Params} (hlegal : p.legal) {r r' : SymtabRow}
    (hr : r ∈ symtabRows p) (hr' : r' ∈ symtabRows p) (hversion : r.version = r'.version)
    (hecl : r.ecl = r'.ecl) : r = r' := by
  obtain ⟨-, -, hversions, hnodup, -⟩ := hlegal
  have hkeys : ((symtabRows p).map fun r => (r.version, r.ecl)).Nodup := by
    refine List.nodup_cons.2 ⟨fun hmem => ?_, hnodup⟩
    obtain ⟨r, hr, hkey⟩ := List.mem_map.1 hmem
    have hone : r.version = 1#3 := congrArg Prod.fst hkey
    have htwo := (hversions r hr).1
    rw [hone] at htwo
    exact absurd htwo (by decide)
  exact List.inj_on_of_nodup_map hkeys hr hr' (Prod.ext hversion hecl)

/-- A row of SYMTAB is what its pair looks up. -/
theorem symtab_of_mem {p : Params} (hlegal : p.legal) {r : SymtabRow} (hr : r ∈ symtabRows p) :
    symtab p r.version r.ecl = some r.symbol.toNat := by
  obtain ⟨r', hfind⟩ : ∃ r', (symtabRows p).find? (fun r' => r'.version == r.version && r'.ecl == r.ecl) =
      some r' := Option.isSome_iff_exists.1 (List.find?_isSome.2 ⟨r, hr, by simp⟩)
  have hkey := List.find?_some hfind
  simp only [Bool.and_eq_true, beq_iff_eq] at hkey
  obtain rfl := symtabRows_key_injective hlegal (List.mem_of_find?_eq_some hfind) hr hkey.1 hkey.2
  rw [symtab, hfind, Option.map_some]

/-- With legal parameters SYMTAB is version 1's entry and the rows. -/
theorem symtab_eq_some_iff {p : Params} (hlegal : p.legal) {version : BitVec 3} {ecl : BitVec 2}
    {sn : Nat} :
    symtab p version ecl = some sn ↔ (version = 1#3 ∧ ecl = p.m1Ecl ∧ sn = 0) ∨
      ∃ r ∈ p.symtab, r.version = version ∧ r.ecl = ecl ∧ r.symbol.toNat = sn := by
  constructor
  · intro h
    exact (symtab_eq_some h).imp_right fun ⟨r, hr, hv, he, hsn⟩ => ⟨r, hr, hv, he, hsn.symm⟩
  · rintro (⟨rfl, rfl, rfl⟩ | ⟨r, hr, rfl, rfl, rfl⟩)
    · exact symtab_of_mem hlegal (List.mem_cons_self ..)
    · exact symtab_of_mem hlegal (List.mem_cons_of_mem _ hr)

/-- Settles O42: the default rows are legal whatever M1_ECL, and are listed one by one. -/
theorem symbolTableEntries : Obligations.SymbolTableEntries := by
  unfold Obligations.SymbolTableEntries
  refine ⟨fun m1 ecl version sn => ?_, fun p version ecl sn hlegal => symtab_eq_some_iff hlegal,
    fun p version ecl sn h => Nat.le_of_lt_succ (symtab_lt_eight h)⟩
  have hlegal : { Params.standard with m1Ecl := m1 }.legal := paramsStandard_legal
  rw [symtab_eq_some_iff hlegal]
  simp only [Params.standard, standardSymtab, List.exists_mem_cons_iff, List.not_mem_nil, false_and,
    exists_false, or_false, @eq_comm _ _ version, @eq_comm _ _ ecl, @eq_comm _ _ sn]
  rfl

end Sys2Proof.Machine

/-! The capacity, and the symbol that ENCODE builds (46_placer.md R157, 47_encode.md R165). Before the last
stage the pattern and format cells hold their values and every other cell is EMPTY, so the EMPTY cells that
the placer visits are the data cells; what the last stage does with them is EMBDATA's own statement. -/

namespace Sys2Proof.Machine

/-! ### The data cells (46_placer.md R157) -/

theorem isDataCell_iff {x y : Nat} : isDataCell x y = true ↔ 1 ≤ x ∧ 1 ≤ y ∧ (9 ≤ x ∨ 9 ≤ y) := by
  simp [isDataCell, and_assoc]

theorem mem_dataCells {dim x y : Nat} :
    (x, y) ∈ dataCells dim ↔ x < dim ∧ y < dim ∧ isDataCell x y = true := by
  rw [dataCells, List.mem_filter]
  constructor
  · rintro ⟨hvisit, hdata⟩
    obtain ⟨hx, hy⟩ := visitOrder_bounds hvisit
    exact ⟨hx, hy, hdata⟩
  · rintro ⟨hx, hy, hdata⟩
    have hx1 : 1 ≤ x := (isDataCell_iff.1 hdata).1
    exact ⟨mem_visitOrder hx hy (.inl (by omega)), hdata⟩

theorem dataCells_nodup (dim : Nat) : (dataCells dim).Nodup := (visitOrder_nodup dim).filter _

/-- The data cells are a square without row 0 and column 0, less the 8 by 8 cells of its corner. -/
theorem dataCells_toFinset (dim : Nat) : (dataCells dim).toFinset =
    (Finset.Ico 1 dim ×ˢ Finset.Ico 1 dim) \ (Finset.Ico 1 9 ×ˢ Finset.Ico 1 9) := by
  ext ⟨x, y⟩
  simp only [List.mem_toFinset, mem_dataCells, isDataCell_iff, Finset.mem_sdiff, Finset.mem_product,
    Finset.mem_Ico]
  omega

/-- The capacity of a symbol (46_placer.md R157). -/
theorem dataCells_length {dim : Nat} (h9 : 9 ≤ dim) :
    (dataCells dim).length + 79 + 2 * (dim - 8) = dim * dim := by
  have hcorner : Finset.Ico 1 9 ×ˢ Finset.Ico 1 9 ⊆ Finset.Ico 1 dim ×ˢ Finset.Ico 1 dim :=
    Finset.product_subset_product (Finset.Ico_subset_Ico_right h9) (Finset.Ico_subset_Ico_right h9)
  rw [← List.toFinset_card_of_nodup (dataCells_nodup dim), dataCells_toFinset,
    Finset.card_sdiff_of_subset hcorner, Finset.card_product, Finset.card_product, Nat.card_Ico,
    Nat.card_Ico]
  obtain ⟨k, rfl⟩ := Nat.exists_eq_add_of_le h9
  have hsquare : (9 + k - 1) * (9 + k - 1) = 64 + 16 * k + k * k := by
    rw [show 9 + k - 1 = 8 + k by omega]
    ring
  have htotal : (9 + k) * (9 + k) = 81 + 18 * k + k * k := by ring
  omega

theorem activeCells_nodup (dim : Nat) :
    ((List.range dim).flatMap fun y => (List.range dim).map fun x => (x, y)).Nodup := by
  have hswap : ((List.range dim).flatMap fun y => (List.range dim).map fun x => (x, y)) =
      ((List.range dim).product (List.range dim)).map Prod.swap := by
    simp [List.product, List.map_flatMap, Function.comp_def]
  rw [hswap]
  exact (List.nodup_range.product List.nodup_range).map Prod.swap_injective

section DataEmpty

variable {dim : Nat} {g : Grid}
  (hempty : ∀ x y, x < dim → y < dim → (g.cell x y = .empty ↔ isDataCell x y = true))
include hempty

/-- Where the EMPTY cells are the data cells, the placer fills the data cells. -/
theorem placerCells_eq_dataCells : placerCells dim g = dataCells dim := by
  refine List.filter_congr fun c hc => ?_
  obtain ⟨hx, hy⟩ := visitOrder_bounds hc
  rw [Bool.eq_iff_iff, beq_iff_eq]
  exact hempty c.1 c.2 hx hy

theorem emptyCells_perm_dataCells : (emptyCells dim g).Perm (dataCells dim) := by
  refine (List.perm_ext_iff_of_nodup ((activeCells_nodup dim).filter _) (dataCells_nodup dim)).2 ?_
  rintro ⟨x, y⟩
  rw [mem_dataCells]
  simp only [List.mem_filter, List.mem_flatMap, List.mem_map, List.mem_range, Prod.mk.injEq, beq_iff_eq]
  constructor
  · rintro ⟨⟨_, hy, _, hx, rfl, rfl⟩, hcell⟩
    exact ⟨hx, hy, (hempty _ _ hx hy).1 hcell⟩
  · rintro ⟨hx, hy, hdata⟩
    exact ⟨⟨y, hy, x, hx, rfl, rfl⟩, (hempty x y hx hy).2 hdata⟩

end DataEmpty

/-! ### The symbol before its last stage (47_encode.md R165) -/

/-- A format cell (45_format.md R144). -/
def inFormat (x y : Nat) : Prop := (x = 8 ∧ 1 ≤ y ∧ y ≤ 8) ∨ (y = 8 ∧ 1 ≤ x ∧ x ≤ 7)

/-- The finder, separator and timing cells of a symbol hold the patterns (43_patterns.md R123 to R125). -/
structure HoldsPatterns (dim : Nat) (g : Grid) : Prop where
  finder_dark : ∀ x y, x < 7 → y < 7 → finderDark x y → g.cell x y = .dark
  finder_light : ∀ x y, x < 7 → y < 7 → ¬finderDark x y → g.cell x y = .light
  separator_row : ∀ x, x < 8 → g.cell x 7 = .light
  separator_column : ∀ y, y < 7 → g.cell 7 y = .light
  timing : ∀ x y, inTiming dim x y → g.cell x y = if (x + y + 1) % 2 = 1 then .dark else .light

/-- The format cells of a symbol hold the field f (45_format.md R144). -/
structure HoldsFormat (f : BitVec 15) (g : Grid) : Prop where
  column : ∀ i, i < 8 → g.cell 8 (i + 1) = if f.getLsbD i then .dark else .light
  row : ∀ i, 8 ≤ i → i < 15 → g.cell (15 - i) 8 = if f.getLsbD i then .dark else .light

/-- What the last stage of ENCODE finds: the patterns and the field f in their cells, and every other cell
EMPTY. -/
structure ReadyForData (dim nmax : Nat) (f : BitVec 15) (g : Grid) : Prop where
  patterns : HoldsPatterns dim g
  format : HoldsFormat f g
  blank : ∀ x y, x < nmax → y < nmax → ¬inFinderRegion x y → ¬inTiming dim x y → ¬inFormat x y →
    g.cell x y = .empty

theorem HoldsPatterns.of_frame {dim : Nat} {g g' : Grid} (h : HoldsPatterns dim g)
    (hframe : ∀ x y, inFinderRegion x y ∨ inTiming dim x y → g'.cell x y = g.cell x y) :
    HoldsPatterns dim g' where
  finder_dark x y hx hy hd := (hframe x y (.inl ⟨by omega, by omega⟩)).trans (h.finder_dark x y hx hy hd)
  finder_light x y hx hy hd := (hframe x y (.inl ⟨by omega, by omega⟩)).trans (h.finder_light x y hx hy hd)
  separator_row x hx := (hframe x 7 (.inl ⟨by omega, by omega⟩)).trans (h.separator_row x hx)
  separator_column y hy := (hframe 7 y (.inl ⟨by omega, by omega⟩)).trans (h.separator_column y hy)
  timing x y ht := (hframe x y (.inr ht)).trans (h.timing x y ht)

theorem HoldsFormat.of_frame {f : BitVec 15} {g g' : Grid} (h : HoldsFormat f g)
    (hframe : ∀ x y, inFormat x y → g'.cell x y = g.cell x y) : HoldsFormat f g' where
  column i hi := (hframe 8 (i + 1) (.inl (by omega))).trans (h.column i hi)
  row i hi hi' := (hframe (15 - i) 8 (.inr (by omega))).trans (h.row i hi hi')

theorem HoldsPatterns.ne_empty {dim x y : Nat} {g : Grid} (h : HoldsPatterns dim g)
    (hxy : inFinderRegion x y ∨ inTiming dim x y) : g.cell x y ≠ .empty := by
  rcases hxy with ⟨hx, hy⟩ | ht
  · have hcell : (x < 7 ∧ y < 7) ∨ (x < 8 ∧ y = 7) ∨ (x = 7 ∧ y < 7) := by omega
    rcases hcell with ⟨hx, hy⟩ | ⟨hx, rfl⟩ | ⟨rfl, hy⟩
    · by_cases hdark : finderDark x y
      · rw [h.finder_dark x y hx hy hdark]; decide
      · rw [h.finder_light x y hx hy hdark]; decide
    · rw [h.separator_row x hx]; decide
    · rw [h.separator_column y hy]; decide
  · rw [h.timing x y ht]
    split <;> decide

theorem HoldsFormat.ne_empty {f : BitVec 15} {x y : Nat} {g : Grid} (h : HoldsFormat f g)
    (hxy : inFormat x y) : g.cell x y ≠ .empty := by
  rcases hxy with ⟨rfl, hy1, hy8⟩ | ⟨rfl, hx1, hx7⟩
  · have hcell := h.column (y - 1) (by omega)
    rw [Nat.sub_add_cancel hy1] at hcell
    rw [hcell]
    split <;> decide
  · have hcell := h.row (15 - x) (by omega) (by omega)
    rw [show 15 - (15 - x) = x by omega] at hcell
    rw [hcell]
    split <;> decide

theorem not_isDataCell_of_pattern {dim x y : Nat} (h : inFinderRegion x y ∨ inTiming dim x y) :
    ¬ isDataCell x y = true := by
  rw [isDataCell_iff]
  simp only [inFinderRegion, inTiming] at h
  omega

theorem not_isDataCell_of_inFormat {x y : Nat} (h : inFormat x y) : ¬ isDataCell x y = true := by
  rw [isDataCell_iff]
  rw [inFormat] at h
  omega

/-- The active cells that are still EMPTY before the last stage are the data cells. -/
theorem ReadyForData.empty_iff {dim nmax : Nat} {f : BitVec 15} {g : Grid} (h : ReadyForData dim nmax f g)
    (hmax : dim ≤ nmax) (x y : Nat) (hx : x < dim) (hy : y < dim) :
    g.cell x y = .empty ↔ isDataCell x y = true := by
  rw [isDataCell_iff]
  constructor
  · intro hempty
    have hpat := mt h.patterns.ne_empty (not_not.2 hempty)
    have hfmt := mt h.format.ne_empty (not_not.2 hempty)
    simp only [inFinderRegion, inTiming] at hpat
    simp only [inFormat] at hfmt
    omega
  · intro hdata
    refine h.blank x y (by omega) (by omega) ?_ ?_ ?_
    · rw [inFinderRegion]; omega
    · rw [inTiming]; omega
    · rw [inFormat]; omega

/-- The placer then fills the data cells. -/
theorem ReadyForData.placerCells_eq {dim nmax : Nat} {f : BitVec 15} {g : Grid}
    (h : ReadyForData dim nmax f g) (hmax : dim ≤ nmax) : placerCells dim g = dataCells dim :=
  placerCells_eq_dataCells (h.empty_iff hmax)

/-- A command that leaves ERR = 0 has completed its body. -/
theorem bodyOf_done_of_exec {i : Instr} {s t : State} (h : exec i s = .next t) (herr : t.err = false) :
    bodyOf i s = .done t := by
  rw [exec_eq_next_iff] at h
  cases hbody : bodyOf i s with
  | done u =>
    rw [hbody] at h
    exact congrArg Ending.done h
  | failed e u =>
    rw [hbody] at h
    subst h
    cases herr

/-- The state s as the last stage of ENCODE finds it, with the cells g and the format field f. -/
def State.beforeData (s : State) (g : Grid) (f : BitVec 15) : State := (s.clearMatrix.setGrid g).setFmt f

theorem State.beforeData_vec (s : State) (g : Grid) (f : BitVec 15) (r : VReg) :
    (s.beforeData g f).vec r = s.vec r := by
  simp [State.beforeData]

theorem ReadyForData.placerCells_beforeData {s : State} {g : Grid} {f : BitVec 15}
    (h : ReadyForData s.dim.toNat s.params.nmax f g) (hmax : s.dim.toNat ≤ s.params.nmax) :
    placerCells (s.beforeData g f).dim.toNat (s.beforeData g f).grid = dataCells s.dim.toNat :=
  h.placerCells_eq hmax

section Stages

variable {s : State} {m : Fin 4} {sn : Nat} (h : s.formatReady m sn) (h9 : 9 ≤ s.dim.toNat)
  (hmax : s.dim.toNat ≤ s.params.nmax)
include h9 hmax

/-- Stage 1 embeds the patterns in the cleared matrix and leaves every other cell EMPTY. -/
theorem embpatStage_cleared : ∃ g, embpatStage s.clearMatrix = .done (s.clearMatrix.setGrid g) ∧
    HoldsPatterns s.dim.toNat g ∧ ∀ x y : Nat, x < s.params.nmax → y < s.params.nmax →
      ¬inFinderRegion x y → ¬inTiming s.dim.toNat x y → g.cell x y = .empty := by
  have hcleared : ∀ x y : Nat, x < s.params.nmax → y < s.params.nmax →
      s.clearMatrix.grid.cell x y = .empty :=
    fun x y hx hy => Grid.cell_cleared (Nat.le_of_lt_succ s.params.nmax.isLt) hx hy
  have hfinder : ∀ x y, inFinderRegion x y → s.clearMatrix.grid.cell x y = .empty :=
    fun x y ⟨hx, hy⟩ => hcleared x y (by omega) (by omega)
  have htimed : ∀ x y, inTiming s.dim.toNat x y → s.clearMatrix.grid.cell x y = .empty :=
    fun x y hxy => hcleared x y (by rw [inTiming] at hxy; omega) (by rw [inTiming] at hxy; omega)
  obtain ⟨g, hexec, hdark, hlight, hrow, hcolumn, htiming, -, hframe⟩ :=
    embpatEmbedsPatterns.2 s.clearMatrix (Nat.le_of_succ_le h9) hfinder
      fun x y hxy => by rw [htimed x y hxy]; decide
  refine ⟨g, bodyOf_done_of_exec hexec rfl, ⟨hdark, hlight, hrow, hcolumn, fun x y hxy => ?_⟩,
    fun x y hx hy hr ht => ?_⟩
  · exact htiming x y hxy (htimed x y hxy)
  · exact (hframe x y hr ht).trans (hcleared x y hx hy)

include h

/-- Stages 1 and 2 of ENCODE leave the symbol ready for its data, and the field in FMT. -/
theorem State.formatReady.stages : ∃ g₁ g f,
    embpatStage s.clearMatrix = .done (s.clearMatrix.setGrid g₁) ∧
    embfmtStage (s.clearMatrix.setGrid g₁) = .done (s.beforeData g f) ∧
    f.toNat = formatWord ((sn <<< 2) ||| m.val) ∧
    ReadyForData s.dim.toNat s.params.nmax f g := by
  obtain ⟨g₁, hpat, hholds, hblank⟩ := embpatStage_cleared h9 hmax
  obtain ⟨f, g, hexec, hf, hcolumn, hrow, hframe⟩ :=
    embfmtWritesFormatCells.2 (s.clearMatrix.setGrid g₁) m sn h h9
  have hkept : ∀ x y, ¬inFormat x y → g.cell x y = g₁.cell x y := fun x y hxy =>
    hframe x y (fun hc => hxy (.inl hc)) (fun hc => hxy (.inr hc))
  refine ⟨g₁, g, f, hpat, bodyOf_done_of_exec hexec rfl, hf, hholds.of_frame fun x y hxy => ?_,
    ⟨hcolumn, hrow⟩, fun x y hx hy hr ht hfmt => ?_⟩
  · refine hkept x y ?_
    simp only [inFinderRegion, inTiming] at hxy
    rw [inFormat]
    omega
  · exact (hkept x y hfmt).trans (hblank x y hx hy hr ht)

end Stages

/-- Settles O53: the three commands are stages 0 to 2, after which the EMPTY cells are the data cells. -/
theorem capacityAfterPatterns : Obligations.CapacityAfterPatterns := by
  unfold Obligations.CapacityAfterPatterns
  intro s a b c m sn h h9 hmax hclear hpat hfmt
  obtain ⟨g₁, g, f, hstage₁, hstage₂, -, hready⟩ := h.stages h9 hmax
  obtain rfl : s.clearMatrix = a := Host.Outcome.next.inj hclear
  rw [exec_of_done (i := .embpat) hstage₁] at hpat
  cases hpat
  rw [exec_of_done (i := .embfmt) hstage₂] at hfmt
  cases hfmt
  have hcount : (emptyCells s.dim.toNat g).length = (dataCells s.dim.toNat).length :=
    (emptyCells_perm_dataCells (hready.empty_iff hmax)).length_eq
  have hcapacity := dataCells_length h9
  change (emptyCells s.dim.toNat g).length + 49 + 15 + 2 * (s.dim.toNat - 8) + 15 = _ ∧
    (placerCells s.dim.toNat g).length = (emptyCells s.dim.toNat g).length
  rw [hready.placerCells_eq hmax, hcount]
  omega

/-- Once stages 1 and 2 are done, ENCODE leaves what EMBDATA leaves (47_encode.md R165). -/
theorem exec_encode_of_stages {s t u : State} (hpat : embpatStage s.clearMatrix = .done t)
    (hfmt : embfmtStage t = .done u) (vs1 : VReg) : exec (.encode vs1) s = exec (.embdata vs1) u := by
  have hbody : bodyOf (.encode vs1) s = bodyOf (.embdata vs1) u := by
    change encodeBodyWith Config.maskFn vs1 s = embdataStage vs1 u
    rw [encodeBodyWith, hpat, Ending.andThen_done, hfmt]
    rfl
  rw [exec_eq_body, exec_eq_body, hbody]

/-- CFG of a state whose format is ready holds a mask that the placer admits. -/
theorem State.formatReady.maskv_legal {s : State} {m : Fin 4} {sn : Nat} (h : s.formatReady m sn) :
    -1 ≤ cfgMaskv s.cfg ∧ cfgMaskv s.cfg ≤ 3 := by
  have hmask := h.1
  omega

theorem State.formatReady.maskFlip_eq {s : State} {m : Fin 4} {sn : Nat} (h : s.formatReady m sn)
    (x y : Nat) : maskFlip (cfgMaskv s.cfg) x y = Config.maskFn m x y := by
  rw [maskFlip, maskIdentifier_eq_some.2 h.1]

/-- Settles O54: the last stage fills the data cells of the symbol that stages 1 and 2 leave, and no other
cell. -/
theorem encodeBuildsSymbol : Obligations.EncodeBuildsSymbol := by
  unfold Obligations.EncodeBuildsSymbol
  refine ⟨fun vs1 => ?_, fun vs1 s m sn h h9 hmax hfits => ?_⟩
  · exact decode_of_encode_eq (by simp [encode, formatV_eq_or]) rfl
  · obtain ⟨g₁, g, f, hstage₁, hstage₂, hf, hready⟩ := h.stages h9 hmax
    have hdata := embdataPlacesPayload.2 vs1 (s.beforeData g f) h.maskv_legal.1 h.maskv_legal.2
    rw [hready.placerCells_beforeData hmax, State.beforeData_vec] at hdata
    have hcapacity := dataCells_length h9
    obtain ⟨g', hexec, hbits, hframe⟩ := hdata (by omega)
    have hkept : ∀ x y, ¬ isDataCell x y = true → g'.cell x y = g.cell x y := fun x y hxy =>
      hframe x y fun hmem => hxy (mem_dataCells.1 hmem).2.2
    have hpatterns := hready.patterns.of_frame fun x y hxy => hkept x y (not_isDataCell_of_pattern hxy)
    have hformat := hready.format.of_frame fun x y hxy => hkept x y (not_isDataCell_of_inFormat hxy)
    refine ⟨g', f, (exec_encode_of_stages hstage₁ hstage₂ vs1).trans hexec, hf, hpatterns.finder_dark,
      hpatterns.finder_light, hpatterns.separator_row, hpatterns.separator_column, hpatterns.timing,
      hformat.column, hformat.row, fun k x y hk => ?_, fun x y hx hy hout => ?_⟩
    · rw [← h.maskFlip_eq x y]
      exact hbits k x y hk
    · have hcell : g'.cell x y = g.cell x y := hframe x y fun hmem =>
        hout ⟨(mem_dataCells.1 hmem).1, (mem_dataCells.1 hmem).2.1⟩
      rw [hcell]
      refine hready.blank x y hx hy ?_ ?_ ?_
      · rw [inFinderRegion]; omega
      · rw [inTiming]; omega
      · rw [inFormat]; omega

/-- Settles O58: the last stage overflows the data cells, whose number is the capacity. -/
theorem encodeOverflow : Obligations.EncodeOverflow := by
  unfold Obligations.EncodeOverflow
  intro vs1 s m sn h h9 hmax hover
  obtain ⟨g₁, g, f, hstage₁, hstage₂, hf, hready⟩ := h.stages h9 hmax
  have hdata := embdataOverflowReportsCounts vs1 (s.beforeData g f) h.maskv_legal.1 h.maskv_legal.2
  rw [hready.placerCells_beforeData hmax, State.beforeData_vec] at hdata
  have hcapacity := dataCells_length h9
  obtain ⟨g', hexec, -, -⟩ := hdata (by omega)
  have hcount : s.dim.toNat * s.dim.toNat - 79 - 2 * (s.dim.toNat - 8) =
      (dataCells s.dim.toNat).length := by omega
  have hfield : BitVec.ofNat 15 (formatWord ((sn <<< 2) ||| m.val)) = f := by
    rw [← hf, BitVec.ofNat_toNat, BitVec.setWidth_eq]
  rw [hcount, hfield]
  exact ⟨g', (exec_encode_of_stages hstage₁ hstage₂ vs1).trans hexec⟩

end Sys2Proof.Machine

/-! The invariant `Inv` (10_state.md R24, R25, R27, R30, R35; 46_placer.md R156; 60_exceptions.md R181). It
holds after every reset under legal parameters, every command keeps it, and so does every other access. -/

namespace Sys2Proof.Machine

/-! ### Reset -/

/-- The invariant holds in every state that a reset under legal parameters leaves, whatever its cells. -/
theorem State.isReset.inv {p : Params} {t : State} (hlegal : p.legal) (h : t.isReset p)
    (hfits : t.grid.fits p.nmax) : Inv t := by
  have hdim : t.side = p.nmax := h.dim_toNat
  have hnmax : 9 ≤ p.nmax.val := hlegal.1
  obtain ⟨_, _, _, _, rfl⟩ := h
  exact {
    params_legal := hlegal
    code_zero := ⟨fun _ => rfl, fun _ => rfl⟩
    code_assigned := rfl
    cfg_reserved := BitVec.zero_and
    dim_legal := by rw [hdim]; exact ⟨by omega, Nat.le_refl _⟩
    storage := hfits
    vec_length := fun r => by cases r <;> exact Nat.zero_le _
    counts := Nat.le_refl _ }

theorem resetWith_inv {p : Params} (hlegal : p.legal) : Inv (State.resetWith p) :=
  (State.isReset_resetWith p).inv hlegal (Grid.drawn_fits _ _)

theorem hostReset_inv {s : State} (hlegal : s.params.legal) : Inv (hostReset s) :=
  (State.isReset_hostReset s).inv hlegal (Grid.drawn_fits _ _)

/-- Settles O23: the drawn cells fit the storage, and the spec's defaults are legal. -/
theorem resetMeetsInv : Obligations.ResetMeetsInv := by
  unfold Obligations.ResetMeetsInv
  exact ⟨fun p hlegal => resetWith_inv hlegal, resetWith_inv paramsStandard_legal⟩

/-! ### Commands -/

/-- A command writes to VD no more than VCAP bits (42_bitvector.md R111, R112). -/
theorem exec_vec_length {i : Instr} {s t : State} (hs : ∀ r, (s.vec r).length ≤ s.params.vcap)
    (h : exec i s = .next t) (r : VReg) : (t.vec r).length ≤ s.params.vcap := by
  have hset : ∀ (vd : VReg) {bits : List Bool}, bits.length ≤ s.params.vcap →
      ((s.setVec vd bits).vec r).length ≤ s.params.vcap := by
    intro vd bits hbits
    rw [State.setVec_vec]
    split
    · exact hbits
    · exact hs r
  rw [exec_eq_next_iff] at h
  subst h
  rw [Ending.settle_vec]
  by_cases hnames : writesVec i r
  · rcases hnames with rfl | ⟨nb, rfl⟩ | ⟨vs1, vs2, rfl⟩
    · exact hset r (Nat.zero_le _)
    · rw [bodyOf, vappBody]
      split
      next => exact hs r
      next hfits => exact hset r (by rw [appendBits_length]; omega)
    · rw [bodyOf, vxorBody]
      split
      next => exact hs r
      next hlen => exact hset r (by rw [xorBits_length (not_not.1 hlen)]; exact hs vs1)
  · rw [bodyOf_vec hnames]
    exact hs r

/-- A count of at most VCAP, which is below 2^16, fits its register. -/
theorem ofNat_toNat_of_le_vcap {n : Nat} {vcap : Fin 65536} (h : n ≤ vcap) :
    (BitVec.ofNat 32 n).toNat = n := by
  rw [BitVec.toNat_ofNat]
  omega

/-- No more bits are consumed than the payload has (46_placer.md R156). -/
theorem exec_counts_le {i : Instr} {s t : State} (hs : Inv s) (h : exec i s = .next t) :
    t.consumed.toNat ≤ t.total.toNat := by
  rw [exec_eq_next_iff] at h
  subst h
  rw [Ending.settle_consumed, Ending.settle_total]
  rcases bodyOf_counts i s with ⟨hconsumed, htotal⟩ | ⟨v, -, n, hn, hconsumed, htotal, -⟩
  · rw [hconsumed, htotal]
    exact hs.counts
  · have hlen := hs.vec_length v
    rw [hconsumed, htotal, ofNat_toNat_of_le_vcap hlen, ofNat_toNat_of_le_vcap (hn.trans hlen)]
    exact hn

/-- ERR and ECODE are set and cleared together (10_state.md R24). -/
theorem ErrorKind.code_ne_zero (e : ErrorKind) : e.code ≠ 0#4 := by cases e <;> decide

theorem exec_code_zero {i : Instr} {s t : State} (hs : s.err = false ↔ s.ecode = 0#4)
    (h : exec i s = .next t) : t.err = false ↔ t.ecode = 0#4 := by
  rcases exec_status h with ⟨herr, hcode⟩ | ⟨-, herr, hcode⟩ | ⟨e, herr, hcode⟩ <;> rw [herr, hcode]
  · exact hs
  · simp
  · simp [e.code_ne_zero]

theorem exec_inv {i : Instr} {s t : State} (hs : Inv s) (h : exec i s = .next t) : Inv t := by
  have hin := exec_sameInputs h
  have hstored : t.stored := exec_stored ⟨hs.dim_legal.2, hs.storage⟩ h
  exact {
    params_legal := hin.params ▸ hs.params_legal
    code_zero := exec_code_zero hs.code_zero h
    code_assigned := exec_keeps_assigned hs.code_assigned h
    cfg_reserved := hin.cfg ▸ hs.cfg_reserved
    dim_legal := ⟨by rw [State.side, hin.dim]; exact hs.dim_legal.1, hstored.1⟩
    storage := hstored.2
    vec_length := fun r => by rw [hin.params]; exact exec_vec_length hs.vec_length h r
    counts := exec_counts_le hs h }

/-! ### The other accesses -/

theorem raise_inv {s : State} (hs : Inv s) (e : ErrorKind) : Inv (s.raise e) :=
  { hs with
    code_zero := by simp [e.code_ne_zero]
    code_assigned := e.code_not_reserved
    vec_length := fun r => by rw [State.raise_vec]; exact hs.vec_length r }

/-- The write mask of CFG is the complement of its reserved bits (10_state.md R25, R26). -/
theorem setCfg_inv {s : State} (hs : Inv s) (w : Word) : Inv (s.setCfg w) :=
  { hs with
    cfg_reserved := by
      rw [State.setCfg_cfg, BitVec.and_assoc]
      exact BitVec.and_zero
    vec_length := fun r => by rw [State.setCfg_vec]; exact hs.vec_length r }

/-- A legal DIM write stores a value of 1..NMAX and draws cells that fit the storage (10_state.md R27,
R28). -/
theorem setDim_inv {s : State} (hs : Inv s) (w : Word) : Inv (s.setDim w) := by
  rcases s.setDim_cases w with ⟨hpos, hmax, hset⟩ | ⟨-, hset⟩ <;> rw [hset]
  · exact { hs with
      dim_legal := ⟨hpos, hmax⟩
      storage := Grid.drawn_fits _ _
      vec_length := fun r => by have hr := hs.vec_length r; cases r <;> exact hr }
  · exact hs

/-- The invariant does not speak of OPA, OPB and the host's lists. -/
theorem Inv.of_unmentioned {s t : State} (hs : Inv s) (h : ∃ opa opb host observed, t = { s with
    opa := opa, opb := opb, host := host, observed := observed }) : Inv t := by
  obtain ⟨_, _, _, _, rfl⟩ := h
  exact { hs with vec_length := fun r => by have hr := hs.vec_length r; cases r <;> exact hr }

theorem issue_inv {w : Word} {s t : State} (hs : Inv s) (h : issue w s = .next t) : Inv t := by
  rcases issue_next_cases h with rfl | rfl | ⟨i, hexec⟩
  · exact hs
  · exact raise_inv hs _
  · exact exec_inv hs hexec

theorem hostWrite_inv {r : HostReg} {w : Word} {s t : State} (hs : Inv s)
    (h : hostWrite r w s = .next t) : Inv t := by
  rcases hostWrite_cases r w s with ⟨-, hw⟩ | ⟨-, hw⟩ | ⟨-, hw⟩ | ⟨-, hw⟩ | ⟨-, hw⟩ | hw <;> rw [hw] at h
  · exact issue_inv hs h
  · cases h
    exact setCfg_inv hs w
  · cases h
    exact setDim_inv hs w
  · cases h
    exact hs.of_unmentioned ⟨_, _, _, _, rfl⟩
  · cases h
    exact hs.of_unmentioned ⟨_, _, _, _, rfl⟩
  · cases h
    exact hs

/-- Settles O24: the invariant does not speak of the host's accesses, and each kind of access keeps it. -/
theorem stepKeepsInv : Obligations.StepKeepsInv := by
  unfold Obligations.StepKeepsInv
  intro s t hs h
  rcases step_next_cases h with ⟨-, rfl⟩ | ⟨e, rest, -, ⟨-, rfl⟩ | ⟨_, _, _, -, -, rfl⟩ |
    ⟨_, _, _, _, -, -, hw⟩⟩
  · exact hs
  · exact hostReset_inv hs.params_legal
  · exact hs.of_unmentioned ⟨_, _, _, _, rfl⟩
  · exact hostWrite_inv (s := s.setHost rest) (hs.of_unmentioned ⟨_, _, _, _, rfl⟩) hw

end Sys2Proof.Machine
